-- ==== Sys2Proof/Word.lean ====
section
/-! DEFINITION. The word types of the AGAMA machine (spec/00_scope.md R7, R10): bytes, 16-bit words, 4-bit Device IDs.
All values are unsigned bit vectors (R14). -/

namespace Sys2Proof

/-- A byte, "eight bits: 0 through 7" (R7, R10). -/
abbrev Byte := BitVec 8

/-- A 16-bit word: an AXR, a memory address, an event handling flags entry (R7). -/
abbrev Word := BitVec 16

/-- A 4-bit Device ID (R26); it addresses a device in AXR transactions. -/
abbrev DevId := BitVec 4

end Sys2Proof
end

