-- ==== Sys2Proof/Syntax.lean ====
section
/-! DEFINITION. The operations of the AGAMA machine: one constructor per row of spec/opcode_table.json (30_encoding.md
R82, R90). Operands are the unsigned fields the rows name (R83). -/

namespace Sys2Proof

/-- One operation. The AXR rows come in pairs, `axrrd…` (read) and `axrwr…` (write), one per pre-defined register and one
per device-specific range. -/
inductive Instr where
  /-- `MEMRD a`, memory read transaction (R62). -/
  | memrd (a : Word)
  /-- `MEMWR a, b`, memory write transaction (R62). -/
  | memwr (a : Word) (b : Byte)
  /-- `PORTRD p`, port read transaction (R64). -/
  | portrd (p : Byte)
  /-- `PORTWR p, b`, port write transaction (R64). -/
  | portwr (p : Byte) (b : Byte)
  /-- `AXRRD id, i`, the generic AXR read (R100). -/
  | axrrd (id : DevId) (i : Byte)
  /-- `AXRWR id, i, v`, the generic AXR write (R101). -/
  | axrwr (id : DevId) (i : Byte) (v : Word)
  /-- `AXRRD` of AXR00, DIR (R103). -/
  | axrrdDir (id : DevId)
  /-- `AXRRD` of AXR01, POCR (R104). -/
  | axrrdPocr (id : DevId)
  /-- `AXRRD` of AXR02, DMR (R105). -/
  | axrrdDmr (id : DevId)
  /-- `AXRRD` of AXR03, DVR (R106). -/
  | axrrdDvr (id : DevId)
  /-- `AXRRD` of AXR04, DSR (R107). -/
  | axrrdDsr (id : DevId)
  /-- `AXRRD` of AXR05, RESERVED05 (R108). -/
  | axrrdReserved05 (id : DevId)
  /-- `AXRRD` of AXR06, RESERVED06 (R108). -/
  | axrrdReserved06 (id : DevId)
  /-- `AXRRD` of AXR07, RESERVED07 (R108). -/
  | axrrdReserved07 (id : DevId)
  /-- `AXRRD` of AXR08, EHCR (R109). -/
  | axrrdEhcr (id : DevId)
  /-- `AXRRD` of AXR09, EHFR (R111). -/
  | axrrdEhfr (id : DevId)
  /-- `AXRRD` of AXR0A, EMVR (R113). -/
  | axrrdEmvr (id : DevId)
  /-- `AXRRD` of AXR0B, RESERVED0B (R108). -/
  | axrrdReserved0B (id : DevId)
  /-- `AXRRD` of AXR0C, DECR (R114). -/
  | axrrdDecr (id : DevId)
  /-- `AXRRD` of AXR0D, DEAR (R115). -/
  | axrrdDear (id : DevId)
  /-- `AXRRD` of AXR0E, DEDR (R116). -/
  | axrrdDedr (id : DevId)
  /-- `AXRRD` of AXR0F, DEFR (R117). -/
  | axrrdDefr (id : DevId)
  /-- `AXRRD` of a device-specific AXR, `10_1F` (R118). -/
  | axrrdDevspec10 (id : DevId) (i : Byte)
  /-- `AXRRD` of a device-specific AXR, `20_3F` (R118). -/
  | axrrdDevspec20 (id : DevId) (i : Byte)
  /-- `AXRRD` of a device-specific AXR, `40_7F` (R118). -/
  | axrrdDevspec40 (id : DevId) (i : Byte)
  /-- `AXRRD` of a device-specific AXR, `80_FF` (R118). -/
  | axrrdDevspec80 (id : DevId) (i : Byte)
  /-- `AXRWR` of AXR00, DIR (R103). -/
  | axrwrDir (id : DevId) (v : Word)
  /-- `AXRWR` of AXR01, POCR (R104). -/
  | axrwrPocr (id : DevId) (v : Word)
  /-- `AXRWR` of AXR02, DMR (R105). -/
  | axrwrDmr (id : DevId) (v : Word)
  /-- `AXRWR` of AXR03, DVR (R106). -/
  | axrwrDvr (id : DevId) (v : Word)
  /-- `AXRWR` of AXR04, DSR (R107). -/
  | axrwrDsr (id : DevId) (v : Word)
  /-- `AXRWR` of AXR05, RESERVED05 (R108). -/
  | axrwrReserved05 (id : DevId) (v : Word)
  /-- `AXRWR` of AXR06, RESERVED06 (R108). -/
  | axrwrReserved06 (id : DevId) (v : Word)
  /-- `AXRWR` of AXR07, RESERVED07 (R108). -/
  | axrwrReserved07 (id : DevId) (v : Word)
  /-- `AXRWR` of AXR08, EHCR (R110). -/
  | axrwrEhcr (id : DevId) (v : Word)
  /-- `AXRWR` of AXR09, EHFR (R112). -/
  | axrwrEhfr (id : DevId) (v : Word)
  /-- `AXRWR` of AXR0A, EMVR (R113). -/
  | axrwrEmvr (id : DevId) (v : Word)
  /-- `AXRWR` of AXR0B, RESERVED0B (R108). -/
  | axrwrReserved0B (id : DevId) (v : Word)
  /-- `AXRWR` of AXR0C, DECR (R114). -/
  | axrwrDecr (id : DevId) (v : Word)
  /-- `AXRWR` of AXR0D, DEAR (R115). -/
  | axrwrDear (id : DevId) (v : Word)
  /-- `AXRWR` of AXR0E, DEDR (R116). -/
  | axrwrDedr (id : DevId) (v : Word)
  /-- `AXRWR` of AXR0F, DEFR (R117). -/
  | axrwrDefr (id : DevId) (v : Word)
  /-- `AXRWR` of a device-specific AXR, `10_1F` (R118). -/
  | axrwrDevspec10 (id : DevId) (i : Byte) (v : Word)
  /-- `AXRWR` of a device-specific AXR, `20_3F` (R118). -/
  | axrwrDevspec20 (id : DevId) (i : Byte) (v : Word)
  /-- `AXRWR` of a device-specific AXR, `40_7F` (R118). -/
  | axrwrDevspec40 (id : DevId) (i : Byte) (v : Word)
  /-- `AXRWR` of a device-specific AXR, `80_FF` (R118). -/
  | axrwrDevspec80 (id : DevId) (i : Byte) (v : Word)
  /-- `SYSMSG CLEARSILENTFLAGS` (R126). -/
  | sysmsgClearsilentflags
  /-- `EVENT d, c, a, x`: event code c occurs at the device with ID d (R142). -/
  | event (d : DevId) (c : Byte) (a : Word) (x : Word)
  /-- `PROCSTEP`: the PROC executes one instruction (R92). -/
  | procstep
  /-- `POWERON cfg`: Power-On (Hard-Reset) with the configuration cfg, laid out as POCR bits 11:0 (R181). -/
  | poweron (cfg : BitVec 12)
  /-- `RESUME`: the host ends a suspension (R135). -/
  | resume
  /-- `LD HL, nn` (R93). -/
  | ldHlNn (nn : Word)
  /-- `AND A, B` (R94). -/
  | andAB
deriving DecidableEq, Repr

end Sys2Proof
end

