-- ==== Sys2Proof/WellFormed.lean ====
section
/-! DEFINITION. Which operations are well-formed. The operand types already bound every field; two checks remain: the
AXR number of a device-specific row lies in that row's range (spec/30_encoding.md R90), and a power-on configuration has
its reserved bits 0 (10_state.md R22, R27; 70_reset_and_hazards.md R185). -/

namespace Sys2Proof

/-- The AXR number `i` matches the row's pattern under its mask (R90). -/
def axrNumberMatches (pat mask i : Byte) : Bool := (i &&& mask) == pat

/-- The bits of a power-on configuration that are reserved wherever the SMS1 Bus bit stands: 11:10, 5 and 2 (R27). -/
def powerOnReserved : BitVec 12 := 0xC24#12

/-- The configuration has 0 in every bit that is reserved under both positions of the SMS1 Bus bit (R22, R185). -/
def powerOnConfigOk (cfg : BitVec 12) : Bool := (cfg &&& powerOnReserved) == 0#12

/-- Well-formedness of an operation. -/
def Instr.wf : Instr → Bool
  | .axrrdDevspec10 _ i => axrNumberMatches 0x10#8 0xF0#8 i
  | .axrrdDevspec20 _ i => axrNumberMatches 0x20#8 0xE0#8 i
  | .axrrdDevspec40 _ i => axrNumberMatches 0x40#8 0xC0#8 i
  | .axrrdDevspec80 _ i => axrNumberMatches 0x80#8 0x80#8 i
  | .axrwrDevspec10 _ i _ => axrNumberMatches 0x10#8 0xF0#8 i
  | .axrwrDevspec20 _ i _ => axrNumberMatches 0x20#8 0xE0#8 i
  | .axrwrDevspec40 _ i _ => axrNumberMatches 0x40#8 0xC0#8 i
  | .axrwrDevspec80 _ i _ => axrNumberMatches 0x80#8 0x80#8 i
  | .poweron cfg => powerOnConfigOk cfg
  | .memrd _ => true
  | .memwr _ _ => true
  | .portrd _ => true
  | .portwr _ _ => true
  | .axrrd _ _ => true
  | .axrwr _ _ _ => true
  | .axrrdDir _ => true
  | .axrrdPocr _ => true
  | .axrrdDmr _ => true
  | .axrrdDvr _ => true
  | .axrrdDsr _ => true
  | .axrrdReserved05 _ => true
  | .axrrdReserved06 _ => true
  | .axrrdReserved07 _ => true
  | .axrrdEhcr _ => true
  | .axrrdEhfr _ => true
  | .axrrdEmvr _ => true
  | .axrrdReserved0B _ => true
  | .axrrdDecr _ => true
  | .axrrdDear _ => true
  | .axrrdDedr _ => true
  | .axrrdDefr _ => true
  | .axrwrDir _ _ => true
  | .axrwrPocr _ _ => true
  | .axrwrDmr _ _ => true
  | .axrwrDvr _ _ => true
  | .axrwrDsr _ _ => true
  | .axrwrReserved05 _ _ => true
  | .axrwrReserved06 _ _ => true
  | .axrwrReserved07 _ _ => true
  | .axrwrEhcr _ _ => true
  | .axrwrEhfr _ _ => true
  | .axrwrEmvr _ _ => true
  | .axrwrReserved0B _ _ => true
  | .axrwrDecr _ _ => true
  | .axrwrDear _ _ => true
  | .axrwrDedr _ _ => true
  | .axrwrDefr _ _ => true
  | .sysmsgClearsilentflags => true
  | .event _ _ _ _ => true
  | .procstep => true
  | .resume => true
  | .ldHlNn _ => true
  | .andAB => true

end Sys2Proof
end

