-- ==== Sys2Proof/Decode.lean ====
section
/-! DEFINITION. Decoding and encoding of operations. The spec has no wire format (30_encoding.md R80); what it fixes is
that an operation is selected by its name and, for AXR transactions, by the AXR number, which picks the row whose `match`
equals it under its `mask` (R90). The record of eight bytes below is the model's own (DESIGN CHOICE, log entry 5):

| byte | 0 | 1 | 2 | 3 | 4, 5 | 6, 7 |
|---|---|---|---|---|---|---|
| holds | AXR number | operation | Device ID | event code or data byte | address or port, low byte first | 16-bit value, low byte first |

A field an operation does not use is 0. Anything else is rejected by name. -/

namespace Sys2Proof

/-- Why a list of bytes is no operation. -/
inductive DecodeError where
  /-- fewer than the eight bytes of a record -/
  | truncated
  /-- byte 1 names no operation -/
  | unknownOperation (op : Byte)
  /-- a field the operation does not use, or a reserved bit of one, is not 0 -/
  | reservedField (op : Byte)
deriving DecidableEq, Repr

/-- Low byte of a word: Byte 0 (00_scope.md R10). -/
def lowByte (w : Word) : Byte := w.extractLsb' 0 8

/-- High byte of a word: Byte 1 (R10). -/
def highByte (w : Word) : Byte := w.extractLsb' 8 8

/-- The word with the given high and low bytes (R10, R83). -/
def wordOf (hi lo : Byte) : Word := hi.setWidth 16 <<< 8 ||| lo.setWidth 16

/-- A byte as a word: the byte in bits 7:0, bits 15:8 zero (R14 `zext_16`). -/
def byteAsWord (b : Byte) : Word := b.setWidth 16

/-- The fields of one record. -/
structure OpRecord where
  sel : Byte
  op : Byte
  id : Byte
  c : Byte
  a : Word
  v : Word
deriving DecidableEq, Repr

/-- The eight bytes of a record, lowest address first. -/
def OpRecord.bytes (r : OpRecord) : List Byte :=
  [r.sel, r.op, r.id, r.c, lowByte r.a, highByte r.a, lowByte r.v, highByte r.v]

/-- The first eight bytes as a record, and what follows them. -/
def takeRecord : List Byte → Option (OpRecord × List Byte)
  | sel :: op :: id :: c :: a0 :: a1 :: v0 :: v1 :: rest =>
    some (⟨sel, op, id, c, wordOf a1 a0, wordOf v1 v0⟩, rest)
  | _ => none

/-- The Device ID in bits 3:0 of a byte (R83). -/
def devIdOf (b : Byte) : DevId := b.extractLsb' 0 4

/-- A Device ID as a byte, bits 7:4 zero. -/
def devIdAsByte (id : DevId) : Byte := id.setWidth 8

/-- One AXR read row of the opcode table: the AXR numbers that select it and the operation it is (R90). -/
structure AxrReadRow where
  pat : Byte
  mask : Byte
  instr : DevId → Byte → Instr

/-- One AXR write row of the opcode table. -/
structure AxrWriteRow where
  pat : Byte
  mask : Byte
  instr : DevId → Byte → Word → Instr

/-- The twenty `AXRRD.…` rows of spec/opcode_table.json. -/
def axrReadRows : List AxrReadRow := [
  ⟨0x00#8, 0xFF#8, fun id _ => .axrrdDir id⟩,
  ⟨0x01#8, 0xFF#8, fun id _ => .axrrdPocr id⟩,
  ⟨0x02#8, 0xFF#8, fun id _ => .axrrdDmr id⟩,
  ⟨0x03#8, 0xFF#8, fun id _ => .axrrdDvr id⟩,
  ⟨0x04#8, 0xFF#8, fun id _ => .axrrdDsr id⟩,
  ⟨0x05#8, 0xFF#8, fun id _ => .axrrdReserved05 id⟩,
  ⟨0x06#8, 0xFF#8, fun id _ => .axrrdReserved06 id⟩,
  ⟨0x07#8, 0xFF#8, fun id _ => .axrrdReserved07 id⟩,
  ⟨0x08#8, 0xFF#8, fun id _ => .axrrdEhcr id⟩,
  ⟨0x09#8, 0xFF#8, fun id _ => .axrrdEhfr id⟩] ++ [
  ⟨0x0A#8, 0xFF#8, fun id _ => .axrrdEmvr id⟩,
  ⟨0x0B#8, 0xFF#8, fun id _ => .axrrdReserved0B id⟩,
  ⟨0x0C#8, 0xFF#8, fun id _ => .axrrdDecr id⟩,
  ⟨0x0D#8, 0xFF#8, fun id _ => .axrrdDear id⟩,
  ⟨0x0E#8, 0xFF#8, fun id _ => .axrrdDedr id⟩,
  ⟨0x0F#8, 0xFF#8, fun id _ => .axrrdDefr id⟩,
  ⟨0x10#8, 0xF0#8, fun id i => .axrrdDevspec10 id i⟩,
  ⟨0x20#8, 0xE0#8, fun id i => .axrrdDevspec20 id i⟩,
  ⟨0x40#8, 0xC0#8, fun id i => .axrrdDevspec40 id i⟩,
  ⟨0x80#8, 0x80#8, fun id i => .axrrdDevspec80 id i⟩]

/-- The twenty `AXRWR.…` rows of spec/opcode_table.json. -/
def axrWriteRows : List AxrWriteRow := [
  ⟨0x00#8, 0xFF#8, fun id _ v => .axrwrDir id v⟩,
  ⟨0x01#8, 0xFF#8, fun id _ v => .axrwrPocr id v⟩,
  ⟨0x02#8, 0xFF#8, fun id _ v => .axrwrDmr id v⟩,
  ⟨0x03#8, 0xFF#8, fun id _ v => .axrwrDvr id v⟩,
  ⟨0x04#8, 0xFF#8, fun id _ v => .axrwrDsr id v⟩,
  ⟨0x05#8, 0xFF#8, fun id _ v => .axrwrReserved05 id v⟩,
  ⟨0x06#8, 0xFF#8, fun id _ v => .axrwrReserved06 id v⟩,
  ⟨0x07#8, 0xFF#8, fun id _ v => .axrwrReserved07 id v⟩,
  ⟨0x08#8, 0xFF#8, fun id _ v => .axrwrEhcr id v⟩,
  ⟨0x09#8, 0xFF#8, fun id _ v => .axrwrEhfr id v⟩] ++ [
  ⟨0x0A#8, 0xFF#8, fun id _ v => .axrwrEmvr id v⟩,
  ⟨0x0B#8, 0xFF#8, fun id _ v => .axrwrReserved0B id v⟩,
  ⟨0x0C#8, 0xFF#8, fun id _ v => .axrwrDecr id v⟩,
  ⟨0x0D#8, 0xFF#8, fun id _ v => .axrwrDear id v⟩,
  ⟨0x0E#8, 0xFF#8, fun id _ v => .axrwrDedr id v⟩,
  ⟨0x0F#8, 0xFF#8, fun id _ v => .axrwrDefr id v⟩,
  ⟨0x10#8, 0xF0#8, fun id i v => .axrwrDevspec10 id i v⟩,
  ⟨0x20#8, 0xE0#8, fun id i v => .axrwrDevspec20 id i v⟩,
  ⟨0x40#8, 0xC0#8, fun id i v => .axrwrDevspec40 id i v⟩,
  ⟨0x80#8, 0x80#8, fun id i v => .axrwrDevspec80 id i v⟩]

/-- The AXR read row an AXR number selects. -/
def axrReadRow (i : Byte) : Option AxrReadRow := axrReadRows.find? fun r => axrNumberMatches r.pat r.mask i

/-- The AXR write row an AXR number selects. -/
def axrWriteRow (i : Byte) : Option AxrWriteRow := axrWriteRows.find? fun r => axrNumberMatches r.pat r.mask i

/-- Every field of the record that its operation does not use is 0; of a used Device ID, bits 7:4 are. -/
def OpRecord.unusedZero (r : OpRecord) (sel id c a v : Bool) : Bool :=
  (sel || r.sel == 0#8) && (if id then r.id &&& 0xF0#8 == 0#8 else r.id == 0#8) && (c || r.c == 0#8)
    && (a || r.a == 0#16) && (v || r.v == 0#16)

/-- The operation, if its checks hold. -/
def OpRecord.checked (r : OpRecord) (ok : Bool) (i : Instr) : Except DecodeError Instr :=
  if ok then .ok i else .error (.reservedField r.op)

/-- The operation a record stands for (R82, R90). -/
def decodeRecord (r : OpRecord) : Except DecodeError Instr :=
  match r.op.toNat with
  | 0 =>
    match axrReadRow r.sel with
    | some row => r.checked (r.unusedZero true true false false false) (row.instr (devIdOf r.id) r.sel)
    | none => .error (.unknownOperation r.op)
  | 1 =>
    match axrWriteRow r.sel with
    | some row => r.checked (r.unusedZero true true false false true) (row.instr (devIdOf r.id) r.sel r.v)
    | none => .error (.unknownOperation r.op)
  | 2 => r.checked (r.unusedZero true true false false false) (.axrrd (devIdOf r.id) r.sel)
  | 3 => r.checked (r.unusedZero true true false false true) (.axrwr (devIdOf r.id) r.sel r.v)
  | 4 => r.checked (r.unusedZero false false false true false) (.memrd r.a)
  | 5 => r.checked (r.unusedZero false false true true false) (.memwr r.a r.c)
  | 6 => r.checked (r.unusedZero false false false true false && highByte r.a == 0#8) (.portrd (lowByte r.a))
  | 7 => r.checked (r.unusedZero false false true true false && highByte r.a == 0#8) (.portwr (lowByte r.a) r.c)
  | 8 => r.checked (r.unusedZero false false false false false) .sysmsgClearsilentflags
  | 9 => r.checked (r.unusedZero false true true true true) (.event (devIdOf r.id) r.c r.a r.v)
  | 10 => r.checked (r.unusedZero false false false false false) .procstep
  | 11 =>
    r.checked (r.unusedZero false false false false true && r.v &&& 0xF000#16 == 0#16
      && powerOnConfigOk (r.v.extractLsb' 0 12)) (.poweron (r.v.extractLsb' 0 12))
  | 12 => r.checked (r.unusedZero false false false false false) .resume
  | 13 => r.checked (r.unusedZero false false false false true) (.ldHlNn r.v)
  | 14 => r.checked (r.unusedZero false false false false false) .andAB
  | _ => .error (.unknownOperation r.op)

/-- Decode the first operation of a list of bytes; total, with the bytes that follow it. -/
def decode (bs : List Byte) : Except DecodeError (Instr × List Byte) :=
  match takeRecord bs with
  | none => .error .truncated
  | some (r, rest) =>
    match decodeRecord r with
    | .ok i => .ok (i, rest)
    | .error e => .error e

/-! ## The encoder -/

/-- The record of an AXR row. -/
def axrRecord (op : Byte) (i : Byte) (id : DevId) (v : Word) : OpRecord := ⟨i, op, devIdAsByte id, 0#8, 0#16, v⟩

/-- The record of an operation. -/
def Instr.record : Instr → OpRecord
  | .memrd a => ⟨0#8, 4#8, 0#8, 0#8, a, 0#16⟩
  | .memwr a b => ⟨0#8, 5#8, 0#8, b, a, 0#16⟩
  | .portrd p => ⟨0#8, 6#8, 0#8, 0#8, byteAsWord p, 0#16⟩
  | .portwr p b => ⟨0#8, 7#8, 0#8, b, byteAsWord p, 0#16⟩
  | .axrrd id i => axrRecord 2 i id 0#16
  | .axrwr id i v => axrRecord 3 i id v
  | .axrrdDir id => axrRecord 0 0x00#8 id 0#16
  | .axrrdPocr id => axrRecord 0 0x01#8 id 0#16
  | .axrrdDmr id => axrRecord 0 0x02#8 id 0#16
  | .axrrdDvr id => axrRecord 0 0x03#8 id 0#16
  | .axrrdDsr id => axrRecord 0 0x04#8 id 0#16
  | .axrrdReserved05 id => axrRecord 0 0x05#8 id 0#16
  | .axrrdReserved06 id => axrRecord 0 0x06#8 id 0#16
  | .axrrdReserved07 id => axrRecord 0 0x07#8 id 0#16
  | .axrrdEhcr id => axrRecord 0 0x08#8 id 0#16
  | .axrrdEhfr id => axrRecord 0 0x09#8 id 0#16
  | .axrrdEmvr id => axrRecord 0 0x0A#8 id 0#16
  | .axrrdReserved0B id => axrRecord 0 0x0B#8 id 0#16
  | .axrrdDecr id => axrRecord 0 0x0C#8 id 0#16
  | .axrrdDear id => axrRecord 0 0x0D#8 id 0#16
  | .axrrdDedr id => axrRecord 0 0x0E#8 id 0#16
  | .axrrdDefr id => axrRecord 0 0x0F#8 id 0#16
  | .axrrdDevspec10 id i => axrRecord 0 i id 0#16
  | .axrrdDevspec20 id i => axrRecord 0 i id 0#16
  | .axrrdDevspec40 id i => axrRecord 0 i id 0#16
  | .axrrdDevspec80 id i => axrRecord 0 i id 0#16
  | .axrwrDir id v => axrRecord 1 0x00#8 id v
  | .axrwrPocr id v => axrRecord 1 0x01#8 id v
  | .axrwrDmr id v => axrRecord 1 0x02#8 id v
  | .axrwrDvr id v => axrRecord 1 0x03#8 id v
  | .axrwrDsr id v => axrRecord 1 0x04#8 id v
  | .axrwrReserved05 id v => axrRecord 1 0x05#8 id v
  | .axrwrReserved06 id v => axrRecord 1 0x06#8 id v
  | .axrwrReserved07 id v => axrRecord 1 0x07#8 id v
  | .axrwrEhcr id v => axrRecord 1 0x08#8 id v
  | .axrwrEhfr id v => axrRecord 1 0x09#8 id v
  | .axrwrEmvr id v => axrRecord 1 0x0A#8 id v
  | .axrwrReserved0B id v => axrRecord 1 0x0B#8 id v
  | .axrwrDecr id v => axrRecord 1 0x0C#8 id v
  | .axrwrDear id v => axrRecord 1 0x0D#8 id v
  | .axrwrDedr id v => axrRecord 1 0x0E#8 id v
  | .axrwrDefr id v => axrRecord 1 0x0F#8 id v
  | .axrwrDevspec10 id i v => axrRecord 1 i id v
  | .axrwrDevspec20 id i v => axrRecord 1 i id v
  | .axrwrDevspec40 id i v => axrRecord 1 i id v
  | .axrwrDevspec80 id i v => axrRecord 1 i id v
  | .sysmsgClearsilentflags => ⟨0#8, 8#8, 0#8, 0#8, 0#16, 0#16⟩
  | .event d c a x => ⟨0#8, 9#8, devIdAsByte d, c, a, x⟩
  | .procstep => ⟨0#8, 10#8, 0#8, 0#8, 0#16, 0#16⟩
  | .poweron cfg => ⟨0#8, 11#8, 0#8, 0#8, 0#16, cfg.setWidth 16⟩
  | .resume => ⟨0#8, 12#8, 0#8, 0#8, 0#16, 0#16⟩
  | .ldHlNn nn => ⟨0#8, 13#8, 0#8, 0#8, 0#16, nn⟩
  | .andAB => ⟨0#8, 14#8, 0#8, 0#8, 0#16, 0#16⟩

/-- The bytes of an operation. -/
def encode (i : Instr) : List Byte := i.record.bytes

/-! ## The opcode table's words -/

/-- The eight bytes of a record whose bits, numbered as spec/opcode_table.json numbers them, are the low `nbits` bits of
`w`, every bit above them 0. -/
def tableBytes (nbits w : Nat) : List Byte :=
  let x := w % 2 ^ nbits
  [BitVec.ofNat 8 x, BitVec.ofNat 8 (x / 2 ^ 8), BitVec.ofNat 8 (x / 2 ^ 16), BitVec.ofNat 8 (x / 2 ^ 24),
    BitVec.ofNat 8 (x / 2 ^ 32), BitVec.ofNat 8 (x / 2 ^ 40), BitVec.ofNat 8 (x / 2 ^ 48), BitVec.ofNat 8 (x / 2 ^ 56)]

/-- What the decoder reads from an instruction of the opcode table (the host's numbering of bits). -/
def decodeTableWord (nbits w : Nat) : Option Instr :=
  match decode (tableBytes nbits w) with
  | .ok (i, _) => some i
  | .error _ => none

end Sys2Proof
end

