-- ==== Sys2Proof/Config.lean ====
section
/-! DEFINITION. What an implementation fixes and the spec leaves open: the named parameters of spec/00_scope.md R8 as
plain data (a machine carries them in `State.hw` and in each device's `spec`, so that a claim over all states is a claim
over all their values), the interface of the processor core `ProcCore` (R92), and the free values: opaque constants that
no proof can evaluate. -/

namespace Sys2Proof

/-! ## Parameters that are plain data -/

/-- The two operating modes (R159). -/
inductive Mode where
  | compatible
  | monitor
deriving DecidableEq, Repr, Inhabited

/-- The devices the source names (R18); `other` is any further device of the lost Figure 2.a. -/
inductive DevName where
  | proc | sram | brom | card | ext0 | ext1 | vdp | psg | ports | extd
  | other (n : Nat)
deriving DecidableEq, Repr

/-- `EventKind(d, c)` of a code the device defines (R136); a code it does not define has no kind. -/
inductive EventKind where
  | compulsory
  | protection
  | breakpoint
deriving DecidableEq, Repr

/-- The transactions whose events a device determines (R141): the four byte transactions and the AXR write. An AXR read is
not among them: it has no side effect (20_memory.md R70, 41_axr_access.md R100), so `EventDetect` of it is empty. -/
inductive TxKind where
  | memRead | memWrite | portRead | portWrite | axrWrite
deriving DecidableEq, Repr

/-- A condition on one device-specific AXR: `AXR[num] AND mask = value`, on the value the device stores. -/
structure AxrCond where
  num : Byte
  mask : Word
  value : Word
deriving DecidableEq, Repr

/-- One conjunction of `EventDetect(d, t)` (R141): the code `code` is raised by a transaction of type `kind` whose address
(or port or AXR number, in bits 7:0) lies in `lo..hi`, whose data (a byte in bits 7:0) agrees with `dataVal` under
`dataMask` (a read carries the data 0), while every condition of `arm` on the device's own configuration holds. A code's detectors are a disjunction. -/
structure Detector where
  code : Byte
  kind : TxKind
  lo : Word
  hi : Word
  dataMask : Word := 0
  dataVal : Word := 0
  arm : List AxrCond := []
deriving DecidableEq, Repr

/-- What `DevAxr(d)` says of one implemented device-specific AXR (R21): plain storage with a writable mask and a Power-On
value, or behaviour that is not fixed (every read is a free value). -/
inductive DevAxrKind where
  | storage (writable reset : Word)
  | unfixed
deriving DecidableEq, Repr

/-- One implemented device-specific AXR, `num` in `$10..$FF`. -/
structure DevAxrSpec where
  num : Byte
  kind : DevAxrKind
deriving DecidableEq, Repr

/-- The fixed properties of one device (R8): `Model(d)`, `Version(d)`, `PostCode(d)`, `DsrDevSpecific(d)` (`none`: not
fixed, any value on every read, U11), `DevAxr(d)`, `EventKind(d, ·)`, `EventDetect(d, ·)`. Its Device ID is the slot it
stands in. -/
structure DeviceSpec where
  name : DevName
  model : Word
  version : Word
  postCode : BitVec 4
  dsrSpecific : Option (BitVec 10)
  axrs : List DevAxrSpec
  kinds : List (Byte × EventKind)
  detect : List Detector
deriving DecidableEq, Repr

/-- How the answering device stores bytes of a memory region: writable, read-only (writes are ignored), or not fixed. -/
inductive StoreKind where
  | ram | rom | unfixed
deriving DecidableEq, Repr

/-- Who answers a memory region: a device by its ID, or the memory device the Boot Device code maps (R186). At which
addresses that device is mapped is not in the source: that the boot regions, and how bytes are stored there, are the same
whichever of the four devices is mapped is DESIGN CHOICE (log entry 48). -/
inductive MemTarget where
  | device (id : DevId)
  | boot
deriving DecidableEq, Repr

/-- One region of `MemMap`'s memory part, addresses `lo..hi`; the first region that holds an address decides. -/
structure MemRegion where
  lo : Word
  hi : Word
  target : MemTarget
  store : StoreKind
deriving DecidableEq, Repr

/-- One region of `MemMap`'s port part, ports `lo..hi`. -/
structure PortRegion where
  lo : Byte
  hi : Byte
  id : DevId
deriving DecidableEq, Repr

/-- `BP_SILENCE` (R150, D9). -/
inductive BpSilence where
  | currentMode | both
deriving DecidableEq, Repr, Inhabited

/-- `DEFR_COPY` (R144, D10). -/
inductive DefrCopy where
  | before | after
deriving DecidableEq, Repr, Inhabited

/-- `POCR_SMS1_BIT` (R27, D5): bit 4 or bit 3. -/
inductive Sms1Bit where
  | bit4 | bit3
deriving DecidableEq, Repr, Inhabited

/-- What the core does with an opcode of its table: the two instructions the source names (R93, R94), the four of the
test programs (G11), or report the opcode as unknown or unsupported (R95). -/
inductive CoreOp where
  | ldHlNn | andAB
  | nop | ldAn | ldBn | ldNnA
  | unknown
deriving DecidableEq, Repr

/-- One row of the core's opcode table: the opcode bytes and what they mean. Opcode bytes without a row are left to
`Config.procCore`. -/
structure OpcodeRow where
  bytes : List Byte
  op : CoreOp
deriving DecidableEq, Repr

/-- The system-wide parameters of R8. `procId` and the four boot device IDs are entries of `Devices`. -/
structure Hardware where
  procId : DevId
  bromId : DevId
  cardId : DevId
  ext0Id : DevId
  ext1Id : DevId
  memMap : List MemRegion
  portMap : List PortRegion
  invalidCode : Byte
  opcodes : List OpcodeRow
  monitorPresent : Bool
  sms1Bit : Sms1Bit
  bpSilence : BpSilence
  defrCopy : DefrCopy
deriving DecidableEq, Repr

/-! ## The processor core -/

/-- The PROC's private state (R39, R40): the Z80 register file (PRESUMED, general knowledge G1; log entry 12). -/
structure Core where
  a : Byte
  f : Byte
  b : Byte
  c : Byte
  d : Byte
  e : Byte
  h : Byte
  l : Byte
  a2 : Byte
  f2 : Byte
  b2 : Byte
  c2 : Byte
  d2 : Byte
  e2 : Byte
  h2 : Byte
  l2 : Byte
  ix : Word
  iy : Word
  sp : Word
  pc : Word
  i : Byte
  r : Byte
  iff1 : Bool
  iff2 : Bool
  im : BitVec 2
deriving DecidableEq, Repr, Inhabited

/-- One instruction of the core as it unfolds: the transactions it issues one at a time and in order, each continuation
taking the answer of a read (R92), and its end: `complete` with the private state after it, or `unknownOpcode`.
`axrWr`'s continuation is told whether the write ended in `AxrWriteError`; `undetermined` takes a free value. -/
inductive CoreProg where
  | complete (c : Core)
  | unknownOpcode
  | memRd (a : Word) (k : Byte → CoreProg)
  | memWr (a : Word) (b : Byte) (k : CoreProg)
  | portRd (p : Byte) (k : Byte → CoreProg)
  | portWr (p : Byte) (b : Byte) (k : CoreProg)
  | axrRd (id : DevId) (i : Byte) (k : Word → CoreProg)
  | axrWr (id : DevId) (i : Byte) (v : Word) (k : Bool → CoreProg)
  | undetermined (k : Byte → CoreProg)
deriving Inhabited

/-- What one device's registers hold after Power-On where the spec states no value (R188). -/
structure PowerOnFree where
  enab : Bool
  ehcr : Byte
  emvr : Word
  decr : Byte
  dear : Word
  dedr : Word
  defr : Word
deriving DecidableEq, Repr, Inhabited

namespace Config

/-! ## Free values: no body, so no proof can see what they are -/

/-- The free values of R14's `draw(N)`: `freeBits w n` is the `w`-bit value of draw number `n` (log entry 3). -/
opaque freeBits (w n : Nat) : BitVec w

/-- The open order in which one transaction's events are processed (R153, D29): a choice per draw number and position. -/
opaque freeOrder (n k : Nat) : Nat

/-- `ProcCore` (R92, D1) for every opcode the core's table has no row for: given the PROC's mode (which is what
`SW_AXR_PATH` may depend on, D23), the private state and the opcode bytes fetched so far. -/
opaque procCore (m : Mode) (c : Core) (fetched : List Byte) : CoreProg

/-- Register values after a Power-On that the spec leaves open (R188): draw number, slot of the device. -/
opaque powerOnDevice (n slot : Nat) : PowerOnFree

/-- The table entry of an event code the device does not define, after Power-On (R45, D22). -/
opaque powerOnFlags (n slot : Nat) (c : Nat) : Word

/-- The PROC's private state after Power-On but for the pc (R188, R189). -/
opaque powerOnCore (n : Nat) : Core

/-- The memory contents after Power-On (R188): draw number, cell. -/
opaque powerOnMem (n cell : Nat) : Byte

/-- `BP_SILENCE` of the machine `State.reset` describes (D9). -/
opaque bpSilence : BpSilence

/-- `DEFR_COPY` of the machine `State.reset` describes (D10). -/
opaque defrCopy : DefrCopy

/-- `POCR_SMS1_BIT` of the machine `State.reset` describes (D5). -/
opaque sms1Bit : Sms1Bit

end Config

end Sys2Proof
end

