-- ==== Sys2Proof/Machine/Sparse.lean ====
section
/-! DEFINITION. Finite tables from numbers to words, as lists in one canonical form: keys strictly rising, no entry 0, an
unlisted key reads 0. Memory (byte cells), the event handling flag tables and the device-specific AXRs are such tables, so
that equal tables are equal data. -/

namespace Sys2Proof.Machine

/-- A table of `w`-bit entries. -/
abbrev Sparse (w : Nat) := List (Nat × BitVec w)

/-- The entry at `k`; an unlisted key reads 0. -/
def Sparse.get {w : Nat} : Sparse w → Nat → BitVec w
  | [], _ => 0#w
  | (j, v) :: t, k => if j = k then v else Sparse.get t k

/-- Insert an entry before the first larger key. -/
def Sparse.insert {w : Nat} (k : Nat) (v : BitVec w) : Sparse w → Sparse w
  | [] => [(k, v)]
  | (j, u) :: t => if k < j then (k, v) :: (j, u) :: t else (j, u) :: Sparse.insert k v t

/-- The table without any entry at `k`. -/
def Sparse.erase {w : Nat} (m : Sparse w) (k : Nat) : Sparse w := m.filter fun p => p.1 != k

/-- The table with entry `v` at `k`; writing 0 removes the entry. -/
def Sparse.set {w : Nat} (m : Sparse w) (k : Nat) (v : BitVec w) : Sparse w :=
  if v = 0#w then Sparse.erase m k else Sparse.insert k v (Sparse.erase m k)

/-- Every entry ANDed with `mask`; entries that become 0 are removed. -/
def Sparse.andAll {w : Nat} (m : Sparse w) (mask : BitVec w) : Sparse w :=
  m.filterMap fun p => if p.2 &&& mask = 0#w then none else some (p.1, p.2 &&& mask)

/-- Some entry has bit `n` set. -/
def Sparse.anyBit {w : Nat} (m : Sparse w) (n : Nat) : Bool := m.any fun p => p.2.getLsbD n

/-- The table whose entry at every `k < size` is `f k`. -/
def Sparse.ofFun {w : Nat} (size : Nat) (f : Nat → BitVec w) : Sparse w :=
  (List.range size).filterMap fun k => if f k = 0#w then none else some (k, f k)

/-- The canonical form over keys below `size`. -/
def Sparse.wf {w : Nat} (size : Nat) (m : Sparse w) : Bool :=
  decide (m.Pairwise fun p q => p.1 < q.1) && m.all fun p => decide (p.1 < size) && p.2 != 0#w

end Sys2Proof.Machine
end

