-- ==== Sys2Proof/Machine/Launch.lean ====
section
/-! DEFINITION. The machine `State.reset` describes: the spec's test configuration T (spec/95_test_vectors.md Part 2)
with the other devices 10_state.md R18 names added, and the default register contents of Power-On (70_reset R187). Every
value here that the spec's rules leave open is a DESIGN CHOICE (log entries 11, 13, 14); the spec's own open choices
`BP_SILENCE`, `DEFR_COPY` and `POCR_SMS1_BIT` stay uninterpreted. Claims over all states do not depend on this file. -/

namespace Sys2Proof.Machine

/-- The kind of event code `c` of a device, if the device defines it (R136, R140). -/
def eventKind (kinds : List (Byte × EventKind)) (c : Byte) : Option EventKind :=
  (kinds.find? fun p => p.1 == c).map (·.2)

/-- The default event handling flags by kind (R187): compulsory and protection `$0400`, breakpoint `$0000`. -/
def defaultFlags : EventKind → Word
  | .compulsory => 0x0400#16
  | .protection => 0x0400#16
  | .breakpoint => 0x0000#16

/-- The event handling flag table after Power-On (R45, R187); `undefinedEntry` gives the entries of undefined codes. -/
def powerOnTable (kinds : List (Byte × EventKind)) (undefinedEntry : Nat → Word) : Sparse 16 :=
  Sparse.ofFun 256 fun c =>
    match eventKind kinds (BitVec.ofNat 8 c) with
    | some k => defaultFlags k
    | none => undefinedEntry c

/-- What `DevAxr(d)` says of AXR number `i` (R21, R118). -/
def devAxrKind (axrs : List DevAxrSpec) (i : Byte) : Option DevAxrKind :=
  (axrs.find? fun a => a.num == i).map (·.kind)

/-- The device-specific AXRs after Power-On: the reset values of `DevAxr(d)` (R21). DESIGN CHOICE (log entry 46): of a
register whose behaviour is not fixed 0 is stored, which no bus read returns and event conditions test. -/
def powerOnAxrs (axrs : List DevAxrSpec) : Sparse 16 :=
  Sparse.ofFun 256 fun i =>
    match devAxrKind axrs (BitVec.ofNat 8 i) with
    | some (.storage _ reset) => reset
    | some .unfixed => 0
    | none => 0

/-- The mode a power-on configuration starts in: bit 9 (R184). -/
def powerOnMode (cfg : BitVec 12) : Mode := if cfg.getLsbD 9 then .monitor else .compatible

/-- Whether a power-on configuration starts suspended: bit 8 (R184). -/
def powerOnSuspended (cfg : BitVec 12) : Bool := cfg.getLsbD 8

/-- A device without events, device-specific registers or POST failure. -/
def plainDevice (name : DevName) : DeviceSpec where
  name := name
  model := 0x0000#16
  version := 0x0003#16
  postCode := 0
  dsrSpecific := some 0
  axrs := []
  kinds := []
  detect := []

/-- T's PROC: INVALID_INSTR has code `$01` (R95). -/
def launchProc : DeviceSpec := { plainDevice .proc with kinds := [(0x01#8, .compulsory)] }

/-- T's SRAM: one protection and two breakpoint events on memory writes. -/
def launchSram : DeviceSpec :=
  { plainDevice .sram with
    kinds := [(0x10#8, .protection), (0x20#8, .breakpoint), (0x21#8, .breakpoint)]
    detect :=
      [⟨0x10#8, .memWrite, 0xC100#16, 0xC1FF#16, 0, 0, []⟩, ⟨0x20#8, .memWrite, 0xC200#16, 0xC200#16, 0, 0, []⟩,
       ⟨0x21#8, .memWrite, 0xC201#16, 0xC201#16, 0, 0, []⟩, ⟨0x20#8, .memWrite, 0xC300#16, 0xC300#16, 0, 0, []⟩,
       ⟨0x21#8, .memWrite, 0xC300#16, 0xC300#16, 0, 0, []⟩] }

/-- The devices by Device ID 0 to 15. -/
def launchDevices : List (Option DeviceSpec) :=
  [some launchProc, some (plainDevice .vdp), some (plainDevice .psg), some launchSram,
   some (plainDevice .brom), some (plainDevice .card), some (plainDevice .ext0), some (plainDevice .ext1),
   some (plainDevice .ports), none, none, none, none, none, none, some (plainDevice .extd)]

/-- The core's opcode table: the object codes of 93_implementation_defined.md G4, G5 and G11 (PRESUMED). -/
def launchOpcodes : List OpcodeRow :=
  [⟨[0x00#8], .nop⟩, ⟨[0x06#8], .ldBn⟩, ⟨[0x21#8], .ldHlNn⟩, ⟨[0x32#8], .ldNnA⟩, ⟨[0x3E#8], .ldAn⟩, ⟨[0xA0#8], .andAB⟩,
   ⟨[0xED#8, 0x00#8], .unknown⟩]

/-- The system-wide parameters at launch. -/
def launchHardware : Hardware where
  procId := 0
  bromId := 4
  cardId := 5
  ext0Id := 6
  ext1Id := 7
  memMap := [⟨0x0000#16, 0xBFFF#16, .boot, .rom⟩, ⟨0xC000#16, 0xDFFF#16, .device 3, .ram⟩]
  portMap := []
  invalidCode := 0x01#8
  opcodes := launchOpcodes
  monitorPresent := true
  sms1Bit := Config.sms1Bit
  bpSilence := Config.bpSilence
  defrCopy := Config.defrCopy

/-- The power-on configuration at launch, V1's `$042`: Compatible, running, SMS mode, Export, SMS2/GG-type bus, EXT0. -/
def launchConfig : BitVec 12 := 0x042#12

end Sys2Proof.Machine
end

