-- ==== Sys2Proof/Machine/State.lean ====
section
/-! DEFINITION. The machine's state as plain data, the reasons a step can stop, and the state after reset. The rules cited
are those of spec/10_state.md unless another file is named. -/

namespace Sys2Proof.Machine

/-- Why the machine stops with a fault. -/
inductive Fault where
  /-- Raised by `step` alone: the host's next bytes are no operation of the opcode table (43_external_debugger.md R133:
  whatever is not listed is no move). Safe: nothing is claimed of such a request. -/
  | notAnOperation (e : DecodeError)
deriving DecidableEq, Repr

/-- Why the machine refuses: the spec gives the situation no meaning. -/
inductive Refusal where
  /-- Raised by `exec` for an instruction that has no meaning yet. Safe. No arm raises it. -/
  | notModelled (mnemonic : String)
  /-- Raised by `occur`: a compulsory event whose entry names no handling mechanism (60_exceptions.md R149). Safe. -/
  | compulsoryEventUnhandled
  /-- Raised by the PROC's step: an unknown opcode whose event names no handling mechanism (40_proc R95). Safe. -/
  | invalidOpcodeUnhandled
  /-- Raised by `occur`: Monitor Mode is asked for and is compiled out (60_exceptions.md R147, R160). Safe. -/
  | monitorModeAbsent
  /-- Raised by `occur`: Monitor Mode is asked for in Monitor Mode (60_exceptions.md R147, R157). Safe. -/
  | monitorModeReentry
  /-- Raised by POWERON: a device fails its Power-On Self Test (70_reset R183). Safe. -/
  | postFailed
deriving DecidableEq, Repr

/-- What an occurrence of an event comes to (60_exceptions.md R142). -/
inductive OccurResult where
  | silenced | ignored | stopped
deriving DecidableEq, Repr

/-- What the last operation reported to its initiator (the model's own; log entry 7). -/
inductive Answer where
  /-- nothing yet -/
  | none
  /-- the byte a memory or port read returned -/
  | byte (b : Byte)
  /-- the word an AXR read returned -/
  | word (v : Word)
  /-- a write, message or host action was performed -/
  | done
  /-- the write was discarded whole: `AxrWriteError` (41_axr_access.md R102) -/
  | axrWriteError
  /-- the result of an EVENT operation -/
  | event (r : OccurResult)
  /-- an event triggered: the action was not carried out, the instruction was abandoned (60_exceptions.md R151) -/
  | stopped
  /-- the PROC completed an instruction -/
  | completed
  /-- the operation is not enabled in this state: nothing happened -/
  | notEnabled
deriving DecidableEq, Repr

/-- The state of one AGAMA Device (R20 to R38). Its Device ID, and so its DIR (R26), is the slot it stands in; DSR (R30),
EHFR (R32) and the reserved registers (R34) are views without storage. -/
structure Device where
  /-- its fixed properties (00_scope.md R8), which no operation changes -/
  spec : DeviceSpec
  /-- POCR bits 15:12, the POST Code (R27) -/
  post : BitVec 4
  /-- `Mode(d)` (R23) -/
  mode : Mode
  /-- `Susp(d)` (R23) -/
  susp : Bool
  /-- `Shut(d)` (R23) -/
  shut : Bool
  /-- `Enab(d)` (R23) -/
  enab : Bool
  /-- the Event Code Index of EHCR (R31) -/
  ehcr : Byte
  /-- `EHT[d]`, the 256-entry event handling flag table (R24, R32) -/
  eht : Sparse 16
  /-- EMVR (R33) -/
  emvr : Word
  /-- the Event Code of DECR (R35) -/
  decr : Byte
  /-- DEAR (R36) -/
  dear : Word
  /-- DEDR (R37) -/
  dedr : Word
  /-- DEFR (R38) -/
  defr : Word
  /-- the stored device-specific AXRs (R21) -/
  devAxr : Sparse 16
deriving DecidableEq, Repr

/-- Memory contents: one cell per device and 16-bit address (20_memory.md R62), see `cellOf`. -/
abbrev Memory := List Host.Cell

/-- The state of the machine. -/
structure State where
  /-- the system-wide parameters (00_scope.md R8), which no operation changes -/
  hw : Hardware
  /-- the devices, by Device ID (R26) -/
  devs : List (Option Device)
  /-- the PROC's private state with the pc (R39, R40) -/
  core : Core
  /-- POCR bits 11:0, the power-on configuration every device sampled (R27) -/
  poc : BitVec 12
  /-- the Boot Device code of the memory device mapped into the processor address space (70_reset R186) -/
  bootMap : BitVec 2
  /-- `BusLast`, the bus data latch (R42) -/
  busLast : Byte
  /-- memory contents -/
  mem : Memory
  /-- the bytes of the host's operations not yet performed (the model's own; log entry 4) -/
  pending : List Byte
  /-- what the last operation reported (the model's own; log entry 7) -/
  answer : Answer
  /-- how many free values have been drawn (the model's own; log entry 3) -/
  draws : Nat
deriving DecidableEq, Repr

/-- A device after Power-On, at the spec's simulator defaults where R45 states no value (log entry 14). -/
def Device.atReset (spec : DeviceSpec) : Device where
  spec := spec
  post := spec.postCode
  mode := powerOnMode launchConfig
  susp := powerOnSuspended launchConfig
  shut := false
  enab := true
  ehcr := 0
  eht := powerOnTable spec.kinds fun _ => 0
  emvr := 0
  decr := 0
  dear := 0
  dedr := 0
  defr := 0
  devAxr := powerOnAxrs spec.axrs

/-- The core after Power-On: pc `$0000` (70_reset R189), every other register 0 (log entries 12, 15). -/
def Core.atReset : Core where
  a := 0
  f := 0
  b := 0
  c := 0
  d := 0
  e := 0
  h := 0
  l := 0
  a2 := 0
  f2 := 0
  b2 := 0
  c2 := 0
  d2 := 0
  e2 := 0
  h2 := 0
  l2 := 0
  ix := 0
  iy := 0
  sp := 0
  pc := 0
  i := 0
  r := 0
  iff1 := false
  iff2 := false
  im := 0

/-- The machine right after Power-On (R45; 70_reset R181): V1 of 95_test_vectors.md at the simulator defaults. -/
def State.reset : State where
  hw := launchHardware
  devs := launchDevices.map (Option.map Device.atReset)
  core := Core.atReset
  poc := launchConfig
  bootMap := launchConfig.extractLsb' 0 2
  busLast := 0xFF#8
  mem := []
  pending := []
  answer := .none
  draws := 0

end Sys2Proof.Machine
end

