-- ==== Sys2Proof/Machine/Flags.lean ====
section
/-! DEFINITION. Every flag computation the spec gives: the event handling flags (spec/30_encoding.md R81, 60_exceptions.md
R143, R149, R150, 42_system_messages.md R126) and the Z80 flags of the one arithmetic instruction the source names
(40_proc_instructions.md R94). -/

namespace Sys2Proof.Machine

/-- Compatible Silent, `CS` (30_encoding.md R81). -/
def flagCS : Word := 0x8000#16

/-- Monitor Silent, `MS` (R81). -/
def flagMS : Word := 0x4000#16

/-- Shutdown, `SD` (R81). -/
def flagSD : Word := 0x0400#16

/-- Monitor Mode, `MM` (R81). -/
def flagMM : Word := 0x0200#16

/-- Suspend, `SU` (R81). -/
def flagSU : Word := 0x0100#16

/-- The mask of the defined bits of an event flags image (R81). -/
def definedFlags : Word := 0xC700#16

/-- The mask of its reserved bits (R81). -/
def reservedFlags : Word := 0x38FF#16

/-- `Silenced(d, k, f)` for a device in mode `m` (60_exceptions.md R143). -/
def silenced (k : EventKind) (m : Mode) (f : Word) : Bool :=
  k != .compulsory &&
    match m with
    | .compatible => f.getLsbD 15
    | .monitor => f.getLsbD 14

/-- Some handling mechanism is specified: Shutdown, Monitor Mode or Suspend (60_exceptions.md R142 step 2, R149). -/
def hasMechanism (f : Word) : Bool := f &&& (flagSD ||| flagMM ||| flagSU) != 0#16

/-- The silent flags a breakpoint event sets when it triggers in mode `m` (60_exceptions.md R150). -/
def silenceSet (bp : BpSilence) (m : Mode) : Word :=
  match bp with
  | .both => flagCS ||| flagMS
  | .currentMode =>
    match m with
    | .compatible => flagCS
    | .monitor => flagMS

/-- The table entry after a trigger: only a breakpoint sets silent flags (R150). -/
def flagsAfterTrigger (k : EventKind) (bp : BpSilence) (m : Mode) (f : Word) : Word :=
  match k with
  | .breakpoint => f ||| silenceSet bp m
  | .compulsory => f
  | .protection => f

/-- The flags a CLEARSILENTFLAGS message leaves at a device in mode `m` (42_system_messages.md R126). -/
def clearKeeps (m : Mode) : Word :=
  match m with
  | .compatible => ~~~(flagCS ||| flagMS)
  | .monitor => ~~~flagMS

/-- Even parity of a byte. -/
def parityEven (r : Byte) : Bool :=
  !(r.getLsbD 0 ^^ r.getLsbD 1 ^^ r.getLsbD 2 ^^ r.getLsbD 3 ^^ r.getLsbD 4 ^^ r.getLsbD 5 ^^ r.getLsbD 6 ^^ r.getLsbD 7)

/-- F after `AND A, B` with result `r` (40_proc_instructions.md R94, general knowledge G5): S, Z, H = 1, P/V even parity,
N = 0, C = 0 in bits 7, 6, 4, 2, 1, 0; bits 5 and 3, of which the spec says nothing, are those of the free value `undetermined`
(PRESUMED bit places; log entry 13). -/
def andFlags (r undetermined : Byte) : Byte :=
  (if r.getLsbD 7 then 0x80#8 else 0#8) ||| (if r == 0#8 then 0x40#8 else 0#8) ||| (undetermined &&& 0x28#8) ||| 0x10#8
    ||| (if parityEven r then 0x04#8 else 0#8)

end Sys2Proof.Machine
end

