-- ==== Sys2Proof/Machine/Operands.lean ====
section
/-! DEFINITION. Operand forms: register images, address ranges, the cells of memory, what a transaction carries (spec/
10_state.md R26 to R38, 20_memory.md R60 to R67, 30_encoding.md R83, 60_exceptions.md R144). -/

namespace Sys2Proof.Machine

/-! ## Register images -/

/-- The DIR image: the Device ID in bits 3:0 (R26). -/
def dirImage (id : DevId) : Word := id.setWidth 16

/-- The POCR image: POST Code in bits 15:12, then the sampled configuration (R27). -/
def pocrImage (post : BitVec 4) (poc : BitVec 12) : Word := post.setWidth 16 <<< 12 ||| poc.setWidth 16

/-- A word with bit `n` equal to `b` and every other bit 0. -/
def bitAt (n : Nat) (b : Bool) : Word := if b then 1#16 <<< n else 0#16

/-- The DSR image (R30; 41_axr_access.md R107): bits 15, 14 the silent summary, 13:12 and 7:0 device-specific, 11 Device
Enabled, 10 Shutdown, 9 Monitor Mode, 8 Suspended. -/
def dsrImage (csSet msSet : Bool) (specific : BitVec 10) (enab shut monitor susp : Bool) : Word :=
  bitAt 15 csSet ||| bitAt 14 msSet ||| (specific.extractLsb' 8 2).setWidth 16 <<< 12 ||| bitAt 11 enab ||| bitAt 10 shut
    ||| bitAt 9 monitor ||| bitAt 8 susp ||| (specific.extractLsb' 0 8).setWidth 16

/-- The position of the SMS1 Bus bit (R27). -/
def sms1Index : Sms1Bit → Nat
  | .bit4 => 4
  | .bit3 => 3

/-- The defined bits of a power-on configuration: 9 to 6, the SMS1 Bus bit, 1:0 (R27). -/
def definedConfig : Sms1Bit → BitVec 12
  | .bit4 => 0x3D3#12
  | .bit3 => 0x3CB#12

/-! ## Addresses -/

/-- `lo ≤ x ≤ hi`. -/
def inRange {w : Nat} (lo hi x : BitVec w) : Bool := lo.toNat ≤ x.toNat && x.toNat ≤ hi.toNat

/-- The number of cells: 16 devices of 64 KBytes. -/
def memorySize : Nat := 1048576

/-- The cell of address `a` at the device with the given ID. -/
def cellOf (id : DevId) (a : Word) : Nat := id.toNat * 65536 + a.toNat

/-- The memory device a Boot Device code names (R27, 70_reset R186). -/
def bootDevice (hw : Hardware) (code : BitVec 2) : DevId :=
  match code.toNat with
  | 0 => hw.bromId
  | 1 => hw.cardId
  | 2 => hw.ext0Id
  | _ => hw.ext1Id

/-- The device a memory region's target means while `code` is the mapped boot device: it answers the same boot regions
whichever it is (DESIGN CHOICE, log entry 48). -/
def MemTarget.resolve (hw : Hardware) (code : BitVec 2) : MemTarget → DevId
  | .device id => id
  | .boot => bootDevice hw code

/-! ## What a transaction carries -/

/-- A transaction that a device answers and that can raise events at it (20_memory.md R66, R70, R78; 60_exceptions.md R141);
an AXR write carries the number of the register. An AXR read raises none (R70; log entry 8). -/
inductive Tx where
  | memRead (a : Word)
  | memWrite (a : Word) (b : Byte)
  | portRead (p : Byte)
  | portWrite (p : Byte) (b : Byte)
  | axrWrite (i : Byte) (v : Word)
deriving DecidableEq, Repr

/-- Its type. -/
def Tx.kind : Tx → TxKind
  | .memRead _ => .memRead
  | .memWrite _ _ => .memWrite
  | .portRead _ => .portRead
  | .portWrite _ _ => .portWrite
  | .axrWrite _ _ => .axrWrite

/-- Its address, or its port (30_encoding.md R83) or AXR number (DESIGN CHOICE, log entry 8) in bits 7:0. -/
def Tx.addr : Tx → Word
  | .memRead a => a
  | .memWrite a _ => a
  | .portRead p => byteAsWord p
  | .portWrite p _ => byteAsWord p
  | .axrWrite i _ => byteAsWord i

/-- The data it carries, a byte in bits 7:0; a read carries none. -/
def Tx.data : Tx → Word
  | .memRead _ => 0
  | .memWrite _ b => byteAsWord b
  | .portRead _ => 0
  | .portWrite _ b => byteAsWord b
  | .axrWrite _ v => v

/-- The event-specific address (60_exceptions.md R144): the address, or the port below eight open bits; of an AXR
write all open (DESIGN CHOICE, log entry 8). -/
def Tx.eventAddr (n : Nat) : Tx → Word
  | .memRead a => a
  | .memWrite a _ => a
  | .portRead p => wordOf (Config.freeBits 8 n) p
  | .portWrite p _ => wordOf (Config.freeBits 8 n) p
  | .axrWrite _ _ => Config.freeBits 16 n

/-- The event-specific data (R144): the write data below eight open bits; for a read or an AXR write, all open (log
entry 8). -/
def Tx.eventData (n : Nat) : Tx → Word
  | .memRead _ => Config.freeBits 16 n
  | .memWrite _ b => wordOf (Config.freeBits 8 n) b
  | .portRead _ => Config.freeBits 16 n
  | .portWrite _ b => wordOf (Config.freeBits 8 n) b
  | .axrWrite _ _ => Config.freeBits 16 n

end Sys2Proof.Machine
end

