-- ==== Sys2Proof/Machine/Ops.lean ====
section
/-! DEFINITION. The named operations over the state: register and memory access, taking an event (the trap of this
machine) as one shared operation, the byte transactions on the bus, the AXR transactions, the system message, resuming
and Power-On. -/

namespace Sys2Proof.Machine

/-! ## Named updates of the state -/

/-- The state with what the operation reports (log entry 7). -/
def State.withAnswer (s : State) (a : Answer) : State := { s with answer := a }

/-- The state with a byte driven on the bus: `BusLast <- b` (20_memory.md R67). -/
def State.withBus (s : State) (b : Byte) : State := { s with busLast := b }

/-- The state with new memory contents. -/
def State.withMem (s : State) (m : Memory) : State := { s with mem := m }

/-- The state with new private state of the PROC. -/
def State.withCore (s : State) (c : Core) : State := { s with core := c }

/-- The state after `n` more free values (log entry 3). -/
def State.drawn (s : State) (n : Nat) : State := { s with draws := s.draws + n }

/-- The state with other bytes of the host pending. -/
def State.withPending (s : State) (bs : List Byte) : State := { s with pending := bs }

/-- The pc is set (R14 `pc <- target`). -/
def State.withPc (s : State) (pc : Word) : State := { s with core := { s.core with pc := pc } }

/-- The state with device `id` replaced. -/
def State.setDev (s : State) (id : DevId) (d : Device) : State := { s with devs := s.devs.set id.toNat (some d) }

/-- `for every device e` (60_exceptions.md R146 to R148). -/
def State.allDevs (s : State) (f : Device → Device) : State := { s with devs := s.devs.map (Option.map f) }

/-! ## Memory -/

/-- The canonical form of memory. -/
def Memory.wf (m : Memory) : Bool := Sparse.wf memorySize m

/-- The byte of memory in a cell. -/
def Memory.byte (m : Memory) (cell : Nat) : Byte := Sparse.get m cell

/-- Memory with a byte written. -/
def Memory.write (m : Memory) (cell : Nat) (b : Byte) : Memory := Sparse.set m cell b

/-! ## Reading the state -/

/-- The device with the given Device ID, if there is one (10_state.md R26). -/
def State.dev? (s : State) (id : DevId) : Option Device := (s.devs[id.toNat]?).join

/-- Every device satisfies `p`. -/
def State.everyDev (s : State) (p : Device → Bool) : Bool := s.devs.all fun o => o.all p

/-- Some device satisfies `p`. -/
def State.someDev (s : State) (p : Device → Bool) : Bool := s.devs.any fun o => o.any p

/-- Response rule: the device answers memory, port and AXR transactions (20_memory.md R66). -/
def Device.responds (d : Device) : Bool := d.enab && !d.shut

/-- The device with the given ID, if it answers (R66). -/
def State.answering (s : State) (id : DevId) : Option Device :=
  match s.dev? id with
  | some d => if d.responds then some d else none
  | none => none

/-- `EHT[d][c]` (10_state.md R24). -/
def Device.flags (d : Device) (c : Byte) : Word := d.eht.get c.toNat

/-- The device with `EHT[d][c]` replaced. -/
def Device.setFlags (d : Device) (c : Byte) (f : Word) : Device := { d with eht := d.eht.set c.toNat f }

/-- Some silent flag of the device is set: DSR bit 15 or 14 (42_system_messages.md R127). -/
def Device.anySilent (d : Device) : Bool := d.eht.anyBit 15 || d.eht.anyBit 14

/-! ## Events -/

/-- `SuspendAll` (60_exceptions.md R146). -/
def State.suspendAll (s : State) : State := s.allDevs fun e => { e with susp := true }

/-- `ShutdownAll` (R148). -/
def State.shutdownAll (s : State) : State := s.allDevs fun e => { e with shut := true }

/-- The state change of `EnterMonitor(d)`: every device enters Monitor Mode, the pc takes the vector (R147). -/
def State.enterMonitor (s : State) (vector : Word) : State :=
  (s.allDevs fun e => { e with mode := .monitor }).withPc vector

/-- Recording a trigger and the automatic silencing of a breakpoint (R144, R150), at the device as it was. -/
def Device.recordTrigger (hw : Hardware) (k : EventKind) (d : Device) (c : Byte) (a x : Word) : Device :=
  let f := d.flags c
  let f' := flagsAfterTrigger k hw.bpSilence d.mode f
  { d.setFlags c f' with
    decr := c
    dear := a
    dedr := x
    defr := match hw.defrCopy with
      | .before => f
      | .after => f' }

/-- Choice of the handling mechanism from the flags `f` of the event that triggered at device `d` (R145, R147). -/
def State.handle (s : State) (d : Device) (f : Word) : Except Refusal State :=
  if f.getLsbD 9 then
    if s.hw.monitorPresent then
      match d.mode with
      | .monitor => .error .monitorModeReentry
      | .compatible =>
        let s' := s.enterMonitor d.emvr
        .ok (if f.getLsbD 8 then s'.suspendAll else s')
    else .error .monitorModeAbsent
  else if f.getLsbD 8 then .ok s.suspendAll
  else if f.getLsbD 10 then .ok s.shutdownAll
  else .ok s

/-- TAKING AN EVENT. `Occur(d, c, a, x)` for an event of kind `k`: silencing, presence of a mechanism, recording,
automatic silencing, handling (R142). `d` is the device at `id`. -/
def State.occur (s : State) (k : EventKind) (id : DevId) (d : Device) (c : Byte) (a x : Word) :
    Except Refusal (OccurResult × State) :=
  if silenced k d.mode (d.flags c) then .ok (.silenced, s)
  else if hasMechanism (d.flags c) then
    match (s.setDev id (d.recordTrigger s.hw k c a x)).handle d (d.flags c) with
    | .ok s' => .ok (.stopped, s')
    | .error r => .error r
  else
    match k with
    | .compulsory => .error .compulsoryEventUnhandled
    | .protection => .ok (.ignored, s)
    | .breakpoint => .ok (.ignored, s)

/-! ## Detection -/

/-- The condition holds of the device's own configuration: it tests the value the device stores. DESIGN CHOICE (log entry
46): of a register whose behaviour `DevAxr(d)` does not fix, whose reads are free values, that is the 0 which reset and
Power-On put there and no write changes; the spec leaves open what an event condition sees of it. -/
def AxrCond.holds (d : Device) (c : AxrCond) : Bool := d.devAxr.get c.num.toNat &&& c.mask == c.value

/-- The detector is raised by transaction `t` at device `d`. -/
def Detector.raised (d : Device) (t : Tx) (det : Detector) : Bool :=
  det.kind == t.kind && inRange det.lo det.hi t.addr && t.data &&& det.dataMask == det.dataVal
    && det.arm.all (AxrCond.holds d)

/-- `EventDetect(d, t)`: the event codes the transaction raises (R141). -/
def Device.detects (d : Device) (t : Tx) : List Byte := (d.spec.detect.filter (Detector.raised d t)).map (·.code)

/-- The raised codes in the order they are processed, which is open (R153): each code is put at a free place among those
after it. -/
def orderCodes (n : Nat) : List Byte → List Byte
  | [] => []
  | [c] => [c]
  | c :: cs => (orderCodes n cs).insertIdx (Config.freeOrder n cs.length % (cs.length + 1)) c

/-- What becomes of the transaction's action (R151). -/
inductive Verdict where
  | proceed | prohibited | stopped
deriving DecidableEq, Repr

/-- The raised codes, one after another, up to the first that stops; `p` says whether a protection event was silenced or
ignored before (R151, R153). A code the device does not define never occurs (30_encoding.md R87). -/
def State.raiseCodes (s : State) (id : DevId) (d : Device) (t : Tx) : List Byte → Bool → Except Refusal (Verdict × State)
  | [], p => .ok (if p then .prohibited else .proceed, s)
  | c :: cs, p =>
    match eventKind d.spec.kinds c with
    | none => s.raiseCodes id d t cs p
    | some k =>
      match s.occur k id d c (t.eventAddr s.draws) (t.eventData (s.draws + 1)) with
      | .error r => .error r
      | .ok (.stopped, s') => .ok (.stopped, s'.drawn 2)
      | .ok (.silenced, _) => s.raiseCodes id d t cs (p || k == .protection)
      | .ok (.ignored, _) => s.raiseCodes id d t cs (p || k == .protection)

/-- The event processing of a transaction at the device that answers it (R141). -/
def State.checkEvents (s : State) (id : DevId) (d : Device) (t : Tx) : Except Refusal (Verdict × State) :=
  s.raiseCodes id d t (orderCodes s.draws (d.detects t)) false

/-! ## Byte transactions -/

/-- How a transaction, or a sequence of them, ends: performed with a result, stopped by an event, or refused. -/
inductive TxOut (α : Type) where
  | done (v : α) (s : State)
  | stopped (s : State)
  | refused (r : Refusal)

/-- Go on after a transaction that was performed. -/
def TxOut.andThen {α β : Type} (o : TxOut α) (f : α → State → TxOut β) : TxOut β :=
  match o with
  | .done v s => f v s
  | .stopped s => .stopped s
  | .refused r => .refused r

/-- How a transaction ends as an operation: its result is reported; a stopped one reports that. -/
def TxOut.report {α : Type} (o : TxOut α) (f : α → Answer) : Host.Outcome State Fault Refusal :=
  match o with
  | .done v s => .next (s.withAnswer (f v))
  | .stopped s => .next (s.withAnswer .stopped)
  | .refused r => .refused r

/-- A transaction at the device that answers it: its events come first, then its action is carried out, or it is prohibited
by a protection event that was silenced or ignored, or it is stopped (60_exceptions.md R141, R151). -/
def State.afterEvents {α : Type} (s : State) (id : DevId) (d : Device) (t : Tx) (carryOut prohibited : State → TxOut α) :
    TxOut α :=
  match s.checkEvents id d t with
  | .error r => .refused r
  | .ok (.stopped, s') => .stopped s'
  | .ok (.prohibited, s') => prohibited s'
  | .ok (.proceed, s') => carryOut s'

/-- The device that answers memory address `a`, and how it stores bytes there (20_memory.md R62, R66; 70_reset R186): of a boot
region the mapped boot device, each of the four with the region's addresses and store (DESIGN CHOICE, log entry 48). -/
def State.memTarget (s : State) (a : Word) : Option (DevId × Device × StoreKind) :=
  match s.hw.memMap.find? fun r => inRange r.lo r.hi a with
  | none => none
  | some r =>
    match s.answering (MemTarget.resolve s.hw s.bootMap r.target) with
    | none => none
    | some d => some (MemTarget.resolve s.hw s.bootMap r.target, d, r.store)

/-- The device that answers port `p` (R64, R66). -/
def State.portTarget (s : State) (p : Byte) : Option (DevId × Device) :=
  match s.hw.portMap.find? fun r => inRange r.lo r.hi p with
  | none => none
  | some r =>
    match s.answering r.id with
    | none => none
    | some d => some (r.id, d)

/-- `UndrivenRead()`, the read nobody answers (R67). -/
def State.undrivenRead (s : State) : Byte := if s.poc.getLsbD (sms1Index s.hw.sms1Bit) then s.busLast else 0xFF#8

/-- A read answered with a value the spec does not give: a free byte, driven on the bus. -/
def State.openRead (s : State) : TxOut Byte :=
  .done (Config.freeBits 8 s.draws) ((s.withBus (Config.freeBits 8 s.draws)).drawn 1)

/-- A read of memory that is carried out (R62, R67). -/
def State.loadByte (s : State) (st : StoreKind) (cell : Nat) : TxOut Byte :=
  match st with
  | .unfixed => s.openRead
  | .ram => .done (s.mem.byte cell) (s.withBus (s.mem.byte cell))
  | .rom => .done (s.mem.byte cell) (s.withBus (s.mem.byte cell))

/-- A write to memory that is carried out (R62). -/
def State.storeByte (s : State) (st : StoreKind) (cell : Nat) (b : Byte) : TxOut Unit :=
  match st with
  | .ram => .done () (s.withMem (s.mem.write cell b))
  | .rom => .done () s
  | .unfixed => .done () s

/-- `MemRead(addr, 1)`: one memory read transaction (R62, R67; 60_exceptions.md R141, R151). -/
def State.memRead (s : State) (a : Word) : TxOut Byte :=
  match s.memTarget a with
  | none => .done s.undrivenRead s
  | some (id, d, st) => s.afterEvents id d (.memRead a) (fun s' => s'.loadByte st (cellOf id a)) State.openRead

/-- `MemWrite(addr, 1, b)`: one memory write transaction (R62, R67; 60_exceptions.md R141, R151). The initiator drives
the byte whatever becomes of it (log entry 9). -/
def State.memWrite (s : State) (a : Word) (b : Byte) : TxOut Unit :=
  match s.memTarget a with
  | none => .done () (s.withBus b)
  | some (id, d, st) =>
    (s.withBus b).afterEvents id d (.memWrite a b) (fun s' => s'.storeByte st (cellOf id a) b) (.done ())

/-- `PortRead(p)`: what an answering device returns is not in the spec (20_memory.md R64, R70). -/
def State.portRead (s : State) (p : Byte) : TxOut Byte :=
  match s.portTarget p with
  | none => .done s.undrivenRead s
  | some (id, d) => s.afterEvents id d (.portRead p) State.openRead State.openRead

/-- `PortWrite(p, b)` (R64, R70): what the device does with the byte is not in the spec (log entry 20). -/
def State.portWrite (s : State) (p : Byte) (b : Byte) : TxOut Unit :=
  match s.portTarget p with
  | none => .done () (s.withBus b)
  | some (id, d) => (s.withBus b).afterEvents id d (.portWrite p b) (.done ()) (.done ())

/-- `MemRead(addr, 2)`: two byte transactions, low byte first, the address wrapping (20_memory.md R60, R68). -/
def State.memReadWord (s : State) (a : Word) : TxOut Word :=
  (s.memRead a).andThen fun lo s' => (s'.memRead (a + 1)).andThen fun hi s'' => .done (wordOf hi lo) s''

/-- `MemWrite(addr, 2, v)` (R60, R68). -/
def State.memWriteWord (s : State) (a : Word) (v : Word) : TxOut Unit :=
  (s.memWrite a (lowByte v)).andThen fun _ s' => s'.memWrite (a + 1) (highByte v)

/-! ## AXR transactions -/

/-- How a register of the device at `id` reads: its value, and how many free values the reading took. -/
abbrev AxrReader := State → DevId → Device → Word × Nat

/-- DIR (41_axr_access.md R103). -/
def readDir : AxrReader := fun _ id _ => (dirImage id, 0)

/-- POCR (R104). -/
def readPocr : AxrReader := fun s _ d => (pocrImage d.post s.poc, 0)

/-- DMR (R105). -/
def readDmr : AxrReader := fun _ _ d => (d.spec.model, 0)

/-- DVR (R106). -/
def readDvr : AxrReader := fun _ _ d => (d.spec.version, 0)

/-- The DSR value for given device-specific bits (R107). -/
def Device.dsr (d : Device) (specific : BitVec 10) : Word :=
  dsrImage (d.eht.anyBit 15) (d.eht.anyBit 14) specific d.enab d.shut (d.mode == .monitor) d.susp

/-- DSR (R107); device-specific bits that are not fixed are free on every read (U11). -/
def readDsr : AxrReader := fun s _ d =>
  match d.spec.dsrSpecific with
  | some b => (d.dsr b, 0)
  | none => (d.dsr (Config.freeBits 10 s.draws), 1)

/-- The reserved registers (R108). -/
def readReserved : AxrReader := fun _ _ _ => (0#16, 0)

/-- EHCR (R109). -/
def readEhcr : AxrReader := fun _ _ d => (byteAsWord d.ehcr, 0)

/-- EHFR, the window onto the selected entry (R111). -/
def readEhfr : AxrReader := fun _ _ d => (d.flags d.ehcr, 0)

/-- EMVR (R113). -/
def readEmvr : AxrReader := fun _ _ d => (d.emvr, 0)

/-- DECR (R114). -/
def readDecr : AxrReader := fun _ _ d => (byteAsWord d.decr, 0)

/-- DEAR (R115). -/
def readDear : AxrReader := fun _ _ d => (d.dear, 0)

/-- DEDR (R116). -/
def readDedr : AxrReader := fun _ _ d => (d.dedr, 0)

/-- DEFR (R117). -/
def readDefr : AxrReader := fun _ _ d => (d.defr, 0)

/-- A device-specific AXR (R118): stored, free, or unimplemented and then `$0000`. That its reads and writes have no side
effect is DESIGN CHOICE (log entry 21): 20_memory.md R70 leaves that open. -/
def readDevspec (i : Byte) : AxrReader := fun s _ d =>
  match devAxrKind d.spec.axrs i with
  | some (.storage _ _) => (d.devAxr.get i.toNat, 0)
  | some .unfixed => (Config.freeBits 16 s.draws, 1)
  | none => (0#16, 0)

/-- How a register is written: its reader, the mask of its writable bits, and what a new value changes. -/
structure AxrReg where
  read : AxrReader
  writable : Device → Word
  write : Word → Device → Device

/-- A register no write changes: READ-ONLY or reserved (R102). -/
def readOnly (r : AxrReader) : AxrReg := ⟨r, fun _ => 0#16, fun _ d => d⟩

/-- EHCR: writable mask `$00FF` (R110). -/
def regEhcr : AxrReg := ⟨readEhcr, fun _ => 0x00FF#16, fun v d => { d with ehcr := lowByte v }⟩

/-- EHFR: writable mask `$C700` (R112). -/
def regEhfr : AxrReg := ⟨readEhfr, fun _ => definedFlags, fun v d => d.setFlags d.ehcr v⟩

/-- EMVR: writable whole (R113). -/
def regEmvr : AxrReg := ⟨readEmvr, fun _ => 0xFFFF#16, fun v d => { d with emvr := v }⟩

/-- A device-specific AXR (R118): the writable mask of `DevAxr(d)`; behaviour that is not fixed accepts every write and
keeps nothing (its reads are free); an unimplemented number is written like a reserved register. -/
def regDevspec (i : Byte) : AxrReg where
  read := readDevspec i
  writable := fun d =>
    match devAxrKind d.spec.axrs i with
    | some (.storage w _) => w
    | some .unfixed => 0xFFFF#16
    | none => 0#16
  write := fun v d =>
    match devAxrKind d.spec.axrs i with
    | some (.storage _ _) => { d with devAxr := d.devAxr.set i.toNat v }
    | some .unfixed => d
    | none => d

/-- The register with AXR number `i` (10_state.md R25). -/
def axrReg (i : Byte) : AxrReg :=
  match i.toNat with
  | 0 => readOnly readDir
  | 1 => readOnly readPocr
  | 2 => readOnly readDmr
  | 3 => readOnly readDvr
  | 4 => readOnly readDsr
  | 5 => readOnly readReserved
  | 6 => readOnly readReserved
  | 7 => readOnly readReserved
  | 8 => regEhcr
  | 9 => regEhfr
  | 10 => regEmvr
  | 11 => readOnly readReserved
  | 12 => readOnly readDecr
  | 13 => readOnly readDear
  | 14 => readOnly readDedr
  | 15 => readOnly readDefr
  | _ => regDevspec i

/-- A read of an AXR with a value the spec does not give: nobody answers (41_axr_access.md R100, D19). -/
def State.openAxrRead (s : State) : TxOut Word := .done (Config.freeBits 16 s.draws) (s.drawn 1)

/-- A write of `v` to register `g` of device `d`, with the discard rule (R102); the Boolean says `AxrWriteError`. -/
def State.writeChecked (s : State) (id : DevId) (d : Device) (g : AxrReg) (v : Word) : TxOut Bool :=
  let cur := (g.read s id d).1
  let w := g.writable d
  let s' := s.drawn (g.read s id d).2
  if (v ^^^ cur) &&& ~~~w = 0#16 then .done false (s'.setDev id (g.write ((cur &&& ~~~w) ||| (v &&& w)) d))
  else .done true s'

/-- `AxrRead(id, i)` of the register read by `r` (R100); nobody answers, any value. "A read changes no state" (R100) and has
no side effect (20_memory.md R70), so it raises no event: `EventDetect` of it is empty (60_exceptions.md R141; log entry 8; of
a device-specific AXR log entry 21). -/
def State.axrRead (s : State) (id : DevId) (r : AxrReader) : TxOut Word :=
  match s.answering id with
  | none => s.openAxrRead
  | some d => .done (r s id d).1 (s.drawn (r s id d).2)

/-- `AxrWrite(id, i, v)` of register `g` (R101), with the events of the transaction (60_exceptions.md R141, R151): a
prohibited write is thrown out and reports no error (DESIGN CHOICE, log entry 8). -/
def State.axrWrite (s : State) (id : DevId) (i : Byte) (g : AxrReg) (v : Word) : TxOut Bool :=
  match s.answering id with
  | none => .done false s
  | some d => s.afterEvents id d (.axrWrite i v) (fun s' => s'.writeChecked id d g v) (.done false)

/-! ## The system message, resuming, Power-On -/

/-- CLEARSILENTFLAGS at one device, by its own mode (42_system_messages.md R126). -/
def Device.clearSilent (d : Device) : Device := { d with eht := d.eht.andAll (clearKeeps d.mode) }

/-- The message delivered to every device (R125, R126). -/
def State.clearSilentFlags (s : State) : State := s.allDevs Device.clearSilent

/-- RESUME is enabled (43_external_debugger.md R135). -/
def State.resumable (s : State) : Bool := s.everyDev fun d => d.susp && !d.shut

/-- The suspension ends at every device (R135). -/
def State.resumeAll (s : State) : State := s.allDevs fun d => { d with susp := false }

/-- One device after Power-On with configuration `cfg` (70_reset R181, R184, R187, R188); `n` numbers the free values,
`slot` the device. -/
def powerOnDev (n : Nat) (cfg : BitVec 12) (slot : Nat) (spec : DeviceSpec) : Device where
  spec := spec
  post := spec.postCode
  mode := powerOnMode cfg
  susp := powerOnSuspended cfg
  shut := false
  enab := (Config.powerOnDevice n slot).enab
  ehcr := (Config.powerOnDevice n slot).ehcr
  eht := powerOnTable spec.kinds fun c => Config.powerOnFlags n slot c &&& definedFlags
  emvr := (Config.powerOnDevice n slot).emvr
  decr := (Config.powerOnDevice n slot).decr
  dear := (Config.powerOnDevice n slot).dear
  dedr := (Config.powerOnDevice n slot).dedr
  defr := (Config.powerOnDevice n slot).defr &&& definedFlags
  devAxr := powerOnAxrs spec.axrs

/-- Every device passes POST (70_reset R183). -/
def State.postPassed (s : State) : Bool := s.everyDev fun d => d.spec.postCode == 0#4

/-- Power-On (R181, R186, R188, R189): reserved bits of the configuration read 0, the boot device is mapped, the pc is
`$0000`, and what the spec leaves open is free. -/
def State.powerOn (s : State) (cfg : BitVec 12) : State :=
  let c := cfg &&& definedConfig s.hw.sms1Bit
  { s with
    devs := s.devs.mapIdx fun slot o => o.map fun d => powerOnDev s.draws c slot d.spec
    core := { Config.powerOnCore s.draws with pc := 0 }
    poc := c
    bootMap := c.extractLsb' 0 2
    busLast := Config.freeBits 8 s.draws
    mem := Sparse.ofFun memorySize (Config.powerOnMem s.draws)
    draws := s.draws + 1 }

end Sys2Proof.Machine
end

