-- ==== Sys2Proof/Machine/Axr.lean ====
section
/-! DEFINITION. The AXR transactions, generic and one per register (spec/41_axr_access.md). -/

namespace Sys2Proof.Machine

/-- The AXR read of the register read by `r` as an operation: the word is reported (R100). -/
def axrReadOp (id : DevId) (r : AxrReader) (s : State) : Host.Outcome State Fault Refusal :=
  (s.axrRead id r).report .word

/-- The AXR write of register `g`, number `i`, as an operation: `AxrWriteError` or nothing is reported (R101, R102). -/
def axrWriteOp (id : DevId) (i : Byte) (g : AxrReg) (v : Word) (s : State) : Host.Outcome State Fault Refusal :=
  (s.axrWrite id i g v).report fun e => if e then .axrWriteError else .done

/-- `AXRRD id, i` (R100): the register with number i. -/
def execAxrrd (id : DevId) (i : Byte) (s : State) : Host.Outcome State Fault Refusal := axrReadOp id (axrReg i).read s

/-- `AXRWR id, i, v` (R101). -/
def execAxrwr (id : DevId) (i : Byte) (v : Word) (s : State) : Host.Outcome State Fault Refusal :=
  axrWriteOp id i (axrReg i) v s

/-- `AXRRD` of DIR (R103). -/
def execAxrrdDir (id : DevId) (s : State) : Host.Outcome State Fault Refusal := axrReadOp id readDir s

/-- `AXRRD` of POCR (R104). -/
def execAxrrdPocr (id : DevId) (s : State) : Host.Outcome State Fault Refusal := axrReadOp id readPocr s

/-- `AXRRD` of DMR (R105). -/
def execAxrrdDmr (id : DevId) (s : State) : Host.Outcome State Fault Refusal := axrReadOp id readDmr s

/-- `AXRRD` of DVR (R106). -/
def execAxrrdDvr (id : DevId) (s : State) : Host.Outcome State Fault Refusal := axrReadOp id readDvr s

/-- `AXRRD` of DSR (R107). -/
def execAxrrdDsr (id : DevId) (s : State) : Host.Outcome State Fault Refusal := axrReadOp id readDsr s

/-- `AXRRD` of RESERVED05 (R108). -/
def execAxrrdReserved05 (id : DevId) (s : State) : Host.Outcome State Fault Refusal := axrReadOp id readReserved s

/-- `AXRRD` of RESERVED06 (R108). -/
def execAxrrdReserved06 (id : DevId) (s : State) : Host.Outcome State Fault Refusal := axrReadOp id readReserved s

/-- `AXRRD` of RESERVED07 (R108). -/
def execAxrrdReserved07 (id : DevId) (s : State) : Host.Outcome State Fault Refusal := axrReadOp id readReserved s

/-- `AXRRD` of EHCR (R109). -/
def execAxrrdEhcr (id : DevId) (s : State) : Host.Outcome State Fault Refusal := axrReadOp id readEhcr s

/-- `AXRRD` of EHFR (R111). -/
def execAxrrdEhfr (id : DevId) (s : State) : Host.Outcome State Fault Refusal := axrReadOp id readEhfr s

/-- `AXRRD` of EMVR (R113). -/
def execAxrrdEmvr (id : DevId) (s : State) : Host.Outcome State Fault Refusal := axrReadOp id readEmvr s

/-- `AXRRD` of RESERVED0B (R108). -/
def execAxrrdReserved0B (id : DevId) (s : State) : Host.Outcome State Fault Refusal := axrReadOp id readReserved s

/-- `AXRRD` of DECR (R114). -/
def execAxrrdDecr (id : DevId) (s : State) : Host.Outcome State Fault Refusal := axrReadOp id readDecr s

/-- `AXRRD` of DEAR (R115). -/
def execAxrrdDear (id : DevId) (s : State) : Host.Outcome State Fault Refusal := axrReadOp id readDear s

/-- `AXRRD` of DEDR (R116). -/
def execAxrrdDedr (id : DevId) (s : State) : Host.Outcome State Fault Refusal := axrReadOp id readDedr s

/-- `AXRRD` of DEFR (R117). -/
def execAxrrdDefr (id : DevId) (s : State) : Host.Outcome State Fault Refusal := axrReadOp id readDefr s

/-- `AXRRD` of `10_1F` (R118). -/
def execAxrrdDevspec10 (id : DevId) (i : Byte) (s : State) : Host.Outcome State Fault Refusal :=
  axrReadOp id (readDevspec i) s

/-- `AXRRD` of `20_3F` (R118). -/
def execAxrrdDevspec20 (id : DevId) (i : Byte) (s : State) : Host.Outcome State Fault Refusal :=
  axrReadOp id (readDevspec i) s

/-- `AXRRD` of `40_7F` (R118). -/
def execAxrrdDevspec40 (id : DevId) (i : Byte) (s : State) : Host.Outcome State Fault Refusal :=
  axrReadOp id (readDevspec i) s

/-- `AXRRD` of `80_FF` (R118). -/
def execAxrrdDevspec80 (id : DevId) (i : Byte) (s : State) : Host.Outcome State Fault Refusal :=
  axrReadOp id (readDevspec i) s

/-- `AXRWR` of DIR (R103). -/
def execAxrwrDir (id : DevId) (v : Word) (s : State) : Host.Outcome State Fault Refusal :=
  axrWriteOp id 0x00#8 (readOnly readDir) v s

/-- `AXRWR` of POCR (R104). -/
def execAxrwrPocr (id : DevId) (v : Word) (s : State) : Host.Outcome State Fault Refusal :=
  axrWriteOp id 0x01#8 (readOnly readPocr) v s

/-- `AXRWR` of DMR (R105). -/
def execAxrwrDmr (id : DevId) (v : Word) (s : State) : Host.Outcome State Fault Refusal :=
  axrWriteOp id 0x02#8 (readOnly readDmr) v s

/-- `AXRWR` of DVR (R106). -/
def execAxrwrDvr (id : DevId) (v : Word) (s : State) : Host.Outcome State Fault Refusal :=
  axrWriteOp id 0x03#8 (readOnly readDvr) v s

/-- `AXRWR` of DSR (R107). -/
def execAxrwrDsr (id : DevId) (v : Word) (s : State) : Host.Outcome State Fault Refusal :=
  axrWriteOp id 0x04#8 (readOnly readDsr) v s

/-- `AXRWR` of RESERVED05 (R108). -/
def execAxrwrReserved05 (id : DevId) (v : Word) (s : State) : Host.Outcome State Fault Refusal :=
  axrWriteOp id 0x05#8 (readOnly readReserved) v s

/-- `AXRWR` of RESERVED06 (R108). -/
def execAxrwrReserved06 (id : DevId) (v : Word) (s : State) : Host.Outcome State Fault Refusal :=
  axrWriteOp id 0x06#8 (readOnly readReserved) v s

/-- `AXRWR` of RESERVED07 (R108). -/
def execAxrwrReserved07 (id : DevId) (v : Word) (s : State) : Host.Outcome State Fault Refusal :=
  axrWriteOp id 0x07#8 (readOnly readReserved) v s

/-- `AXRWR` of EHCR (R110). -/
def execAxrwrEhcr (id : DevId) (v : Word) (s : State) : Host.Outcome State Fault Refusal :=
  axrWriteOp id 0x08#8 regEhcr v s

/-- `AXRWR` of EHFR (R112). -/
def execAxrwrEhfr (id : DevId) (v : Word) (s : State) : Host.Outcome State Fault Refusal :=
  axrWriteOp id 0x09#8 regEhfr v s

/-- `AXRWR` of EMVR (R113). -/
def execAxrwrEmvr (id : DevId) (v : Word) (s : State) : Host.Outcome State Fault Refusal :=
  axrWriteOp id 0x0A#8 regEmvr v s

/-- `AXRWR` of RESERVED0B (R108). -/
def execAxrwrReserved0B (id : DevId) (v : Word) (s : State) : Host.Outcome State Fault Refusal :=
  axrWriteOp id 0x0B#8 (readOnly readReserved) v s

/-- `AXRWR` of DECR (R114). -/
def execAxrwrDecr (id : DevId) (v : Word) (s : State) : Host.Outcome State Fault Refusal :=
  axrWriteOp id 0x0C#8 (readOnly readDecr) v s

/-- `AXRWR` of DEAR (R115). -/
def execAxrwrDear (id : DevId) (v : Word) (s : State) : Host.Outcome State Fault Refusal :=
  axrWriteOp id 0x0D#8 (readOnly readDear) v s

/-- `AXRWR` of DEDR (R116). -/
def execAxrwrDedr (id : DevId) (v : Word) (s : State) : Host.Outcome State Fault Refusal :=
  axrWriteOp id 0x0E#8 (readOnly readDedr) v s

/-- `AXRWR` of DEFR (R117). -/
def execAxrwrDefr (id : DevId) (v : Word) (s : State) : Host.Outcome State Fault Refusal :=
  axrWriteOp id 0x0F#8 (readOnly readDefr) v s

/-- `AXRWR` of `10_1F` (R118). -/
def execAxrwrDevspec10 (id : DevId) (i : Byte) (v : Word) (s : State) : Host.Outcome State Fault Refusal :=
  axrWriteOp id i (regDevspec i) v s

/-- `AXRWR` of `20_3F` (R118). -/
def execAxrwrDevspec20 (id : DevId) (i : Byte) (v : Word) (s : State) : Host.Outcome State Fault Refusal :=
  axrWriteOp id i (regDevspec i) v s

/-- `AXRWR` of `40_7F` (R118). -/
def execAxrwrDevspec40 (id : DevId) (i : Byte) (v : Word) (s : State) : Host.Outcome State Fault Refusal :=
  axrWriteOp id i (regDevspec i) v s

/-- `AXRWR` of `80_FF` (R118). -/
def execAxrwrDevspec80 (id : DevId) (i : Byte) (v : Word) (s : State) : Host.Outcome State Fault Refusal :=
  axrWriteOp id i (regDevspec i) v s

end Sys2Proof.Machine
end

