-- ==== Sys2Proof/Machine/Bus.lean ====
section
/-! DEFINITION. The byte transactions as operations of their own: MEMRD, MEMWR, PORTRD, PORTWR (spec/20_memory.md R62,
R64, R66 to R70; 60_exceptions.md R141, R151). -/

namespace Sys2Proof.Machine

/-- `MEMRD a` (R62). -/
def execMemrd (a : Word) (s : State) : Host.Outcome State Fault Refusal := (s.memRead a).report .byte

/-- `MEMWR a, b` (R62). -/
def execMemwr (a : Word) (b : Byte) (s : State) : Host.Outcome State Fault Refusal :=
  (s.memWrite a b).report fun _ => .done

/-- `PORTRD p` (R64). -/
def execPortrd (p : Byte) (s : State) : Host.Outcome State Fault Refusal := (s.portRead p).report .byte

/-- `PORTWR p, b` (R64). -/
def execPortwr (p : Byte) (b : Byte) (s : State) : Host.Outcome State Fault Refusal :=
  (s.portWrite p b).report fun _ => .done

end Sys2Proof.Machine
end

