-- ==== Sys2Proof/Machine/Proc.lean ====
section
/-! DEFINITION. The PROC (spec/40_proc_instructions.md): the processor step over `ProcCore`, and the two instructions the
source names. -/

namespace Sys2Proof.Machine

/-! ## The core's programs -/

/-- HL loaded, pc past an instruction of `len` bytes (R93). No other register changes; that R, too, stays (no count of the
fetches) is the model's choice (DESIGN CHOICE, log entry 47). -/
def Core.loadHl (c : Core) (nn : Word) (len : Word) : Core :=
  { c with h := highByte nn, l := lowByte nn, pc := c.pc + len }

/-- A ANDed with B, the flags, pc past an instruction of `len` bytes (R94). No other register changes; that R, too, stays
is the model's choice (DESIGN CHOICE, log entry 47). -/
def Core.andB (c : Core) (undetermined : Byte) (len : Word) : Core :=
  { c with a := c.a &&& c.b, f := andFlags (c.a &&& c.b) undetermined, pc := c.pc + len }

/-- What the core does after fetching the `len` opcode bytes of a row of its table (R93, R94; 93 G11). None of them
changes R (DESIGN CHOICE, log entry 47). -/
def opProg (op : CoreOp) (len : Word) (c : Core) : CoreProg :=
  match op with
  | .ldHlNn =>
    .memRd (c.pc + len) fun lo => .memRd (c.pc + len + 1) fun hi => .complete (Core.loadHl c (wordOf hi lo) (len + 2))
  | .andAB => .undetermined fun u => .complete (Core.andB c u len)
  | .nop => .complete { c with pc := c.pc + len }
  | .ldAn => .memRd (c.pc + len) fun n => .complete { c with a := n, pc := c.pc + len + 1 }
  | .ldBn => .memRd (c.pc + len) fun n => .complete { c with b := n, pc := c.pc + len + 1 }
  | .ldNnA =>
    .memRd (c.pc + len) fun lo => .memRd (c.pc + len + 1) fun hi =>
      .memWr (wordOf hi lo) c.a (.complete { c with pc := c.pc + len + 2 })
  | .unknown => .unknownOpcode

/-- Fetch opcode bytes one at a time while they begin a longer row of the table; bytes no row begins with are left to
`ProcCore` (R89, R92). `fuel` bounds the bytes by the longest row. -/
def fetchProg (rows : List OpcodeRow) (m : Mode) (c : Core) : Nat → List Byte → CoreProg
  | 0, got => Config.procCore m c got
  | fuel + 1, got =>
    .memRd (c.pc + BitVec.ofNat 16 got.length) fun b =>
      let got' := got ++ [b]
      match rows.find? fun r => r.bytes == got' with
      | some r => opProg r.op (BitVec.ofNat 16 got'.length) c
      | none =>
        if rows.any fun r => got'.isPrefixOf r.bytes then fetchProg rows m c fuel got' else Config.procCore m c got'

/-- The longest row of the table, and at least one byte: every instruction starts with a fetch (R92). -/
def fetchLimit (rows : List OpcodeRow) : Nat := rows.foldl (fun n r => max n r.bytes.length) 1

/-- `LD HL, nn` with its operand known: three fetches, then HL and the pc (R93). -/
def ldHlNnProg (nn : Word) (c : Core) : CoreProg :=
  .memRd c.pc fun _ => .memRd (c.pc + 1) fun _ => .memRd (c.pc + 2) fun _ => .complete (Core.loadHl c nn 3)

/-- `AND A, B`: one fetch, then A, the flags and the pc (R94). -/
def andABProg (c : Core) : CoreProg := .memRd c.pc fun _ => .undetermined fun u => .complete (Core.andB c u 1)

/-! ## Running one instruction -/

/-- How an instruction of the core ends when no transaction of it is stopped: `kind` of R92. -/
inductive CoreEnd where
  | valid (c : Core)
  | invalidOpcode

/-- The transactions of an instruction, one at a time and in order (R92 step 1). -/
def runProg : CoreProg → State → TxOut CoreEnd
  | .complete c, s => .done (.valid c) s
  | .unknownOpcode, s => .done .invalidOpcode s
  | .memRd a k, s => (s.memRead a).andThen fun b s' => runProg (k b) s'
  | .memWr a b k, s => (s.memWrite a b).andThen fun _ s' => runProg k s'
  | .portRd p k, s => (s.portRead p).andThen fun b s' => runProg (k b) s'
  | .portWr p b k, s => (s.portWrite p b).andThen fun _ s' => runProg k s'
  | .axrRd id i k, s => (s.axrRead id (axrReg i).read).andThen fun v s' => runProg (k v) s'
  | .axrWr id i v k, s => (s.axrWrite id i (axrReg i) v).andThen fun e s' => runProg (k e) s'
  | .undetermined k, s => runProg (k (Config.freeBits 8 s.draws)) (s.drawn 1)

/-- The end of an instruction that completes: the private state is replaced, then the PROC sends CLEARSILENTFLAGS if any
device has a silent flag set (R92 step 4; 42_system_messages.md R127). -/
def State.complete (s : State) (c : Core) : State :=
  let s' := s.withCore c
  if s'.someDev Device.anySilent then s'.clearSilentFlags else s'

/-- INVALID_INSTR at the PROC (R95): compulsory, its address and data open (D7). -/
def State.invalidInstr (s : State) : Host.Outcome State Fault Refusal :=
  match s.dev? s.hw.procId with
  | none => .next (s.withAnswer .notEnabled)
  | some d =>
    match s.occur .compulsory s.hw.procId d s.hw.invalidCode (Config.freeBits 16 s.draws)
        (Config.freeBits 16 (s.draws + 1)) with
    | .ok (_, s') => .next ((s'.drawn 2).withAnswer .stopped)
    | .error .compulsoryEventUnhandled => .refused .invalidOpcodeUnhandled
    | .error r => .refused r

/-- One instruction of the core (R92 steps 1 to 4). An instruction that is stopped is abandoned: the private state is the
old one but for a pc that Monitor Mode has set. -/
def State.instruction (s : State) (p : CoreProg) : Host.Outcome State Fault Refusal :=
  match runProg p s with
  | .refused r => .refused r
  | .stopped s' => .next (s'.withAnswer .stopped)
  | .done .invalidOpcode s' => s'.invalidInstr
  | .done (.valid c) s' => .next ((s'.complete c).withAnswer .completed)

/-- The PROC, if it executes instructions: neither suspended nor shut down (R96). -/
def State.runningProc (s : State) : Option Device :=
  match s.dev? s.hw.procId with
  | some d => if !d.susp && !d.shut then some d else none
  | none => none

/-- `PROCSTEP` (R92). -/
def execProcstep (s : State) : Host.Outcome State Fault Refusal :=
  match s.runningProc with
  | none => .next (s.withAnswer .notEnabled)
  | some d => s.instruction (fetchProg s.hw.opcodes d.mode s.core (fetchLimit s.hw.opcodes) [])

/-- `LD HL, nn`, executed by the PROC at its pc (R93). -/
def execLdHlNn (nn : Word) (s : State) : Host.Outcome State Fault Refusal :=
  match s.runningProc with
  | none => .next (s.withAnswer .notEnabled)
  | some _ => s.instruction (ldHlNnProg nn s.core)

/-- `AND A, B`, executed by the PROC at its pc (R94). -/
def execAndAB (s : State) : Host.Outcome State Fault Refusal :=
  match s.runningProc with
  | none => .next (s.withAnswer .notEnabled)
  | some _ => s.instruction (andABProg s.core)

end Sys2Proof.Machine
end

