-- ==== Sys2Proof/Machine/System.lean ====
section
/-! DEFINITION. The system message, the event as an operation of its own, and the host's actions: SYSMSG.CLEARSILENTFLAGS,
EVENT, POWERON, RESUME. -/

namespace Sys2Proof.Machine

/-- `SYSMSG CLEARSILENTFLAGS` (spec/42_system_messages.md R126). -/
def execSysmsgClearsilentflags (s : State) : Host.Outcome State Fault Refusal :=
  .next (s.clearSilentFlags.withAnswer .done)

/-- `EVENT d, c, a, x` (60_exceptions.md R142). An ID no device holds, or a code the device does not define, never occurs
(30_encoding.md R87): not enabled (log entries 6, 41). DESIGN CHOICE (log entry 41): the event is performed whatever the
state of the device, one that is disabled, suspended or in Shutdown too, though of itself an event arises only at a device
that answers a transaction, or at the running PROC (R141). -/
def execEvent (id : DevId) (c : Byte) (a x : Word) (s : State) : Host.Outcome State Fault Refusal :=
  match s.dev? id with
  | none => .next (s.withAnswer .notEnabled)
  | some d =>
    match eventKind d.spec.kinds c with
    | none => .next (s.withAnswer .notEnabled)
    | some k =>
      match s.occur k id d c a x with
      | .ok (r, s') => .next (s'.withAnswer (.event r))
      | .error e => .refused e

/-- `POWERON cfg` (70_reset R181, R183). -/
def execPoweron (cfg : BitVec 12) (s : State) : Host.Outcome State Fault Refusal :=
  if s.postPassed then .next ((s.powerOn cfg).withAnswer .done) else .refused .postFailed

/-- `RESUME` (43_external_debugger.md R135). -/
def execResume (s : State) : Host.Outcome State Fault Refusal :=
  if s.resumable then .next (s.resumeAll.withAnswer .done) else .next (s.withAnswer .notEnabled)

end Sys2Proof.Machine
end

