-- ==== Sys2Proof/Machine/Dispatch.lean ====
section
/-! DEFINITION. Each operation's meaning: one arm per constructor of Instr. -/

namespace Sys2Proof.Machine

def exec (i : Instr) (s : State) : Host.Outcome State Fault Refusal :=
  match i with
  | .memrd a => Sys2Proof.Machine.execMemrd a s
  | .memwr a b => Sys2Proof.Machine.execMemwr a b s
  | .portrd p => Sys2Proof.Machine.execPortrd p s
  | .portwr p b => Sys2Proof.Machine.execPortwr p b s
  | .axrrd id j => Sys2Proof.Machine.execAxrrd id j s
  | .axrwr id j v => Sys2Proof.Machine.execAxrwr id j v s
  | .axrrdDir id => Sys2Proof.Machine.execAxrrdDir id s
  | .axrrdPocr id => Sys2Proof.Machine.execAxrrdPocr id s
  | .axrrdDmr id => Sys2Proof.Machine.execAxrrdDmr id s
  | .axrrdDvr id => Sys2Proof.Machine.execAxrrdDvr id s
  | .axrrdDsr id => Sys2Proof.Machine.execAxrrdDsr id s
  | .axrrdReserved05 id => Sys2Proof.Machine.execAxrrdReserved05 id s
  | .axrrdReserved06 id => Sys2Proof.Machine.execAxrrdReserved06 id s
  | .axrrdReserved07 id => Sys2Proof.Machine.execAxrrdReserved07 id s
  | .axrrdEhcr id => Sys2Proof.Machine.execAxrrdEhcr id s
  | .axrrdEhfr id => Sys2Proof.Machine.execAxrrdEhfr id s
  | .axrrdEmvr id => Sys2Proof.Machine.execAxrrdEmvr id s
  | .axrrdReserved0B id => Sys2Proof.Machine.execAxrrdReserved0B id s
  | .axrrdDecr id => Sys2Proof.Machine.execAxrrdDecr id s
  | .axrrdDear id => Sys2Proof.Machine.execAxrrdDear id s
  | .axrrdDedr id => Sys2Proof.Machine.execAxrrdDedr id s
  | .axrrdDefr id => Sys2Proof.Machine.execAxrrdDefr id s
  | .axrrdDevspec10 id j => Sys2Proof.Machine.execAxrrdDevspec10 id j s
  | .axrrdDevspec20 id j => Sys2Proof.Machine.execAxrrdDevspec20 id j s
  | .axrrdDevspec40 id j => Sys2Proof.Machine.execAxrrdDevspec40 id j s
  | .axrrdDevspec80 id j => Sys2Proof.Machine.execAxrrdDevspec80 id j s
  | .axrwrDir id v => Sys2Proof.Machine.execAxrwrDir id v s
  | .axrwrPocr id v => Sys2Proof.Machine.execAxrwrPocr id v s
  | .axrwrDmr id v => Sys2Proof.Machine.execAxrwrDmr id v s
  | .axrwrDvr id v => Sys2Proof.Machine.execAxrwrDvr id v s
  | .axrwrDsr id v => Sys2Proof.Machine.execAxrwrDsr id v s
  | .axrwrReserved05 id v => Sys2Proof.Machine.execAxrwrReserved05 id v s
  | .axrwrReserved06 id v => Sys2Proof.Machine.execAxrwrReserved06 id v s
  | .axrwrReserved07 id v => Sys2Proof.Machine.execAxrwrReserved07 id v s
  | .axrwrEhcr id v => Sys2Proof.Machine.execAxrwrEhcr id v s
  | .axrwrEhfr id v => Sys2Proof.Machine.execAxrwrEhfr id v s
  | .axrwrEmvr id v => Sys2Proof.Machine.execAxrwrEmvr id v s
  | .axrwrReserved0B id v => Sys2Proof.Machine.execAxrwrReserved0B id v s
  | .axrwrDecr id v => Sys2Proof.Machine.execAxrwrDecr id v s
  | .axrwrDear id v => Sys2Proof.Machine.execAxrwrDear id v s
  | .axrwrDedr id v => Sys2Proof.Machine.execAxrwrDedr id v s
  | .axrwrDefr id v => Sys2Proof.Machine.execAxrwrDefr id v s
  | .axrwrDevspec10 id j v => Sys2Proof.Machine.execAxrwrDevspec10 id j v s
  | .axrwrDevspec20 id j v => Sys2Proof.Machine.execAxrwrDevspec20 id j v s
  | .axrwrDevspec40 id j v => Sys2Proof.Machine.execAxrwrDevspec40 id j v s
  | .axrwrDevspec80 id j v => Sys2Proof.Machine.execAxrwrDevspec80 id j v s
  | .sysmsgClearsilentflags => Sys2Proof.Machine.execSysmsgClearsilentflags s
  | .event d c a x => Sys2Proof.Machine.execEvent d c a x s
  | .procstep => Sys2Proof.Machine.execProcstep s
  | .poweron cfg => Sys2Proof.Machine.execPoweron cfg s
  | .resume => Sys2Proof.Machine.execResume s
  | .ldHlNn nn => Sys2Proof.Machine.execLdHlNn nn s
  | .andAB => Sys2Proof.Machine.execAndAB s

end Sys2Proof.Machine
end

