-- ==== Sys2Proof/Machine/Step.lean ====
section
/-! DEFINITION. One step of the machine: the host's next pending operation, or else one instruction of the PROC
(spec/10_state.md R19; 43_external_debugger.md R134; log entry 4). -/

namespace Sys2Proof.Machine

/-- One step. -/
def step (s : State) : Host.Outcome State Fault Refusal :=
  match s.pending with
  | [] => exec .procstep s
  | bs =>
    match decode bs with
    | .ok (i, rest) => exec i (s.withPending rest)
    | .error e => .fault (.notAnOperation e)

/-- The state whose next step fetches the operation with the given bits (the host's numbering of bits): its record stands
first among the host's pending bytes. -/
def State.withFetchWord (s : State) (nbits w : Nat) : State := s.withPending (tableBytes nbits w ++ s.pending)

end Sys2Proof.Machine
end

