-- ==== Sys2Proof/Safety.lean ====
section
/-! DEFINITION. What a sound state is, in the terms the claims use. -/

namespace Sys2Proof.Machine

/-- A device whose tables are in canonical form, with 0 in every reserved bit of its table entries and of DEFR (spec/
10_state.md R22, R24, R38). -/
def Device.wf (d : Device) : Bool :=
  Sparse.wf 256 d.eht && (d.eht.all fun p => p.2 &&& reservedFlags == 0) && Sparse.wf 256 d.devAxr
    && d.defr &&& reservedFlags == 0

/-- Two devices agree on what the whole system shares: mode, suspension, shutdown (60_exceptions.md R146 to R148, R159). -/
def Device.agrees (d e : Device) : Bool := d.mode == e.mode && d.susp == e.susp && d.shut == e.shut

/-- The bits of the sampled power-on configuration that are not reserved: 9 to 6, 1, 0, and the SMS1 Bus bit, which is bit 4
or bit 3 (10_state.md R27). -/
def sampledBits (b : Sms1Bit) : BitVec 12 := if b = .bit4 then 0x3D3#12 else 0x3CB#12

/-- All devices changed mode, suspended and shut down together (R159, R163). -/
def State.uniform (s : State) : Bool := s.everyDev fun d => s.everyDev fun e => d.agrees e

/-- The invariant of the machine: at most sixteen Device IDs, sound devices that change mode, suspend and shut down
together, reserved bits of the sampled configuration 0 (10_state.md R22, R27), memory in canonical form. -/
def State.wf (s : State) : Bool :=
  s.devs.length == 16 && s.everyDev Device.wf && s.uniform && (s.poc &&& ~~~(sampledBits s.hw.sms1Bit)) == 0
    && Memory.wf s.mem

/-- A raised code that the device does not define, or whose event is silenced or ignored: it neither triggers nor refuses
(60_exceptions.md R142, R143, R149). -/
def Device.passes (d : Device) (c : Byte) : Bool :=
  match eventKind d.spec.kinds c with
  | none => true
  | some k => silenced k d.mode (d.flags c) || (!hasMechanism (d.flags c) && k != .compulsory)

/-- Some of the raised codes is a protection event, whose action is prohibited (R151). -/
def Device.protects (d : Device) (cs : List Byte) : Bool :=
  cs.any fun c => eventKind d.spec.kinds c == some .protection

/-- Every code the transaction raises at the device passes and none of them is a protection event, so that its action is
carried out (R141, R151). -/
def Device.carriesOut (d : Device) (t : Tx) : Bool := (d.detects t).all d.passes && !d.protects (d.detects t)

/-- The byte a memory read at `a` returns from the answering device's store, where the read is carried out (20_memory.md
R62; 60_exceptions.md R151); none where nobody answers, where what the device returns is open, or where an event prevents
it. -/
def State.storedByte (s : State) (a : Word) : Option Byte :=
  match s.memTarget a with
  | none => none
  | some (id, d, st) =>
    if d.carriesOut (.memRead a) && st != .unfixed then some (s.mem.byte (cellOf id a)) else none

/-- A memory read at `a` is performed: nobody answers it, or all the codes it raises pass (60_exceptions.md R151). -/
def State.readsThrough (s : State) (a : Word) : Bool :=
  match s.memTarget a with
  | none => true
  | some (_, d, _) => (d.detects (.memRead a)).all d.passes

/-- The operation is the AXR read of register `n` of the device with the given ID: the generic one, or that of the row the
number selects (30_encoding.md R90). -/
def ReadsAxr (i : Instr) (id : DevId) (n : Byte) : Prop :=
  i = .axrrd id n ∨ ∃ row, axrReadRow n = some row ∧ i = row.instr id n

/-- The operation is the AXR write of `v` to register `n` of the device with the given ID (R90). -/
def WritesAxr (i : Instr) (id : DevId) (n : Byte) (v : Word) : Prop :=
  i = .axrwr id n v ∨ ∃ row, axrWriteRow n = some row ∧ i = row.instr id n v

/-- The operation is one bus transaction: a memory, port or AXR read or write (20_memory.md R66, R78). -/
inductive IsTransaction : Instr → Prop where
  | memRead (a : Word) : IsTransaction (.memrd a)
  | memWrite (a : Word) (b : Byte) : IsTransaction (.memwr a b)
  | portRead (p : Byte) : IsTransaction (.portrd p)
  | portWrite (p b : Byte) : IsTransaction (.portwr p b)
  | axrRead {i : Instr} {id : DevId} {n : Byte} (h : ReadsAxr i id n) : IsTransaction i
  | axrWrite {i : Instr} {id : DevId} {n : Byte} {v : Word} (h : WritesAxr i id n v) : IsTransaction i

/-- The operation is the bus transaction given, and the device given, at the ID given, answers it (R66); an AXR read, which
raises no event (R70), is none of these. -/
inductive Issues (s : State) : Instr → DevId → Device → Tx → Prop where
  | memRead {a : Word} {id : DevId} {d : Device} {st : StoreKind} (h : s.memTarget a = some (id, d, st)) :
      Issues s (.memrd a) id d (.memRead a)
  | memWrite {a : Word} {b : Byte} {id : DevId} {d : Device} {st : StoreKind} (h : s.memTarget a = some (id, d, st)) :
      Issues s (.memwr a b) id d (.memWrite a b)
  | portRead {p : Byte} {id : DevId} {d : Device} (h : s.portTarget p = some (id, d)) :
      Issues s (.portrd p) id d (.portRead p)
  | portWrite {p b : Byte} {id : DevId} {d : Device} (h : s.portTarget p = some (id, d)) :
      Issues s (.portwr p b) id d (.portWrite p b)
  | axrWrite {i : Instr} {id : DevId} {n : Byte} {v : Word} {d : Device} (hi : WritesAxr i id n v)
      (h : s.answering id = some d) : Issues s i id d (.axrWrite n v)

/-- `a` and `x` are what a trigger of the transaction's event may record (60_exceptions.md R144): the address of a memory
transaction, in bits 7:0 the port of a port transaction, in bits 7:0 the byte written; all else is open (log entries 8,
39). -/
def Tx.records (t : Tx) (a x : Word) : Prop :=
  match t with
  | .memRead a' => a = a'
  | .memWrite a' b => a = a' ∧ x.extractLsb' 0 8 = b
  | .portRead p => a.extractLsb' 0 8 = p
  | .portWrite p b => a.extractLsb' 0 8 = p ∧ x.extractLsb' 0 8 = b
  | .axrWrite _ _ => True

/-- The program that an instruction of a running PROC executes (40_proc_instructions.md R92 to R94). -/
inductive Executes (s : State) : Instr → CoreProg → Prop where
  | procstep {d : Device} (h : s.runningProc = some d) :
      Executes s .procstep (fetchProg s.hw.opcodes d.mode s.core (fetchLimit s.hw.opcodes) [])
  | ldHlNn {d : Device} (h : s.runningProc = some d) (nn : Word) : Executes s (.ldHlNn nn) (ldHlNnProg nn s.core)
  | andAB {d : Device} (h : s.runningProc = some d) : Executes s .andAB (andABProg s.core)

/-- The bus transaction that a program of the PROC issues next. -/
def nextTransaction : CoreProg → Option Instr
  | .memRd a _ => some (.memrd a)
  | .memWr a b _ => some (.memwr a b)
  | .portRd p _ => some (.portrd p)
  | .portWr p b _ => some (.portwr p b)
  | .axrRd id n _ => some (.axrrd id n)
  | .axrWr id n v _ => some (.axrwr id n v)
  | .complete _ => none
  | .unknownOpcode => none
  | .undetermined _ => none

/-- `Underway s p q u`: the program `p`, begun in state `s`, has performed its first transactions, each as the bus
transaction it is, and has come to state `u` with `q` left to do; no event has triggered on the way and nothing but the
program's own transactions has happened (R92 step 1). What an operation reports is put back, since the initiator here is the
PROC (log entry 7). -/
inductive Underway (s : State) (p : CoreProg) : CoreProg → State → Prop where
  | start : Underway s p p s
  | memRd {a : Word} {k : Byte → CoreProg} {u w : State} {b : Byte} (h : Underway s p (.memRd a k) u)
      (hx : exec (.memrd a) u = .next w) (ha : w.answer = .byte b) : Underway s p (k b) (w.withAnswer u.answer)
  | memWr {a : Word} {b : Byte} {k : CoreProg} {u w : State} (h : Underway s p (.memWr a b k) u)
      (hx : exec (.memwr a b) u = .next w) (ha : w.answer = .done) : Underway s p k (w.withAnswer u.answer)
  | portRd {a : Byte} {k : Byte → CoreProg} {u w : State} {b : Byte} (h : Underway s p (.portRd a k) u)
      (hx : exec (.portrd a) u = .next w) (ha : w.answer = .byte b) : Underway s p (k b) (w.withAnswer u.answer)
  | portWr {a b : Byte} {k : CoreProg} {u w : State} (h : Underway s p (.portWr a b k) u)
      (hx : exec (.portwr a b) u = .next w) (ha : w.answer = .done) : Underway s p k (w.withAnswer u.answer)
  | axrRd {id : DevId} {n : Byte} {k : Word → CoreProg} {u w : State} {v : Word} (h : Underway s p (.axrRd id n k) u)
      (hx : exec (.axrrd id n) u = .next w) (ha : w.answer = .word v) : Underway s p (k v) (w.withAnswer u.answer)
  | axrWr {id : DevId} {n : Byte} {v : Word} {k : Bool → CoreProg} {u w : State} {e : Bool}
      (h : Underway s p (.axrWr id n v k) u) (hx : exec (.axrwr id n v) u = .next w)
      (ha : w.answer = if e then .axrWriteError else .done) : Underway s p (k e) (w.withAnswer u.answer)
  | undetermined {k : Byte → CoreProg} {u : State} (h : Underway s p (.undetermined k) u) :
      Underway s p (k (Config.freeBits 8 u.draws)) (u.drawn 1)

/-- The bytes are stored at the pc and after it, where reads of them are carried out. -/
def State.storesAtPc (s : State) (bs : List Byte) : Prop :=
  ∀ n b, bs[n]? = some b → s.storedByte (s.core.pc + BitVec.ofNat 16 n) = some b

/-- A PROC in mode `m` with private state `c` that fetches the bytes `bs` meets an opcode it does not know (R95): the first
row of its table that is met on the way says so; or no row is met, the bytes before the last begin rows, all of them begin
none, and the core's own answer to them is that (log entry 1). -/
def UnknownOpcode (rows : List OpcodeRow) (m : Mode) (c : Core) (bs : List Byte) : Prop :=
  bs ≠ [] ∧
  (∀ got, got ≠ [] → got <+: bs → got ≠ bs →
    (rows.find? fun r => r.bytes == got) = none ∧ (rows.any fun r => got.isPrefixOf r.bytes) = true) ∧
  match rows.find? fun r => r.bytes == bs with
  | some r => r.op = .unknown
  | none => (rows.any fun r => bs.isPrefixOf r.bytes) = false ∧ Config.procCore m c bs = .unknownOpcode

/-- The writable bits of the sixteen pre-defined registers (41_axr_access.md R102, R103 to R117). -/
def writableBits (n : Byte) : Word :=
  if n = 0x08#8 then 0x00FF#16 else if n = 0x09#8 then 0xC700#16 else if n = 0x0A#8 then 0xFFFF#16 else 0x0000#16

/-- The silent flags a triggering breakpoint sets (60_exceptions.md R150). -/
def breakpointSilence (hw : Hardware) (m : Mode) : Word :=
  if hw.bpSilence = .both then 0xC000#16 else if m = .compatible then 0x8000#16 else 0x4000#16

/-- DEFR after a trigger of code `c`: the entry before, or as it is at the device `e` after (60_exceptions.md R144). -/
def recordedFlags (hw : Hardware) (before : Word) (e : Device) (c : Byte) : Word :=
  if hw.defrCopy = .before then before else e.flags c

/-- The fixed properties of the machine: the system-wide parameters and each device's own (10_state.md R44). -/
def State.config (s : State) : Hardware × List (Option DeviceSpec) := (s.hw, s.devs.map (Option.map Device.spec))

end Sys2Proof.Machine
end

