-- ==== Sys2Proof/Certificates/Slice0/Obligations.lean ====
section
/-! DEFINITION. The statements about the machine that are to be proved. The rule numbers are those of spec/. -/

section Statements

open Sys2Proof Sys2Proof.Machine

/-! ## Encoding -/

/-- Decoding the record of a well-formed operation gives the operation back, whatever bytes follow it (R82, R90; the
record is the model's own, log entry 5). -/
def Obligations.DecodeEncodeRoundTrip : Prop :=
  ∀ (i : Instr) (rest : List Byte), i.wf = true → decode (encode i ++ rest) = .ok (i, rest)

/-- Whatever decodes is the record of a well-formed operation: no bit of a record is dropped (R82, R90; log entry 5). -/
def Obligations.DecodeAcceptsOnlyEncodings : Prop :=
  ∀ (bs : List Byte) (i : Instr) (rest : List Byte), decode bs = .ok (i, rest) → i.wf = true ∧ bs = encode i ++ rest

/-- Each AXR number selects one row, and the generic AXR operation with that number does in every state what the row's
operation does (R90, R100, R101). -/
def Obligations.GenericAxrIsTheSelectedRow : Prop :=
  ∀ (s : State) (id : DevId) (n : Byte),
    (∃ row, axrReadRow n = some row ∧ exec (.axrrd id n) s = exec (row.instr id n) s) ∧
    ∀ v : Word, ∃ row, axrWriteRow n = some row ∧ exec (.axrwr id n v) s = exec (row.instr id n v) s

/-- Records written out byte by byte decode to the operations they stand for (log entry 5; R90 for the AXR numbers). -/
def Obligations.SampleRecordsDecode : Prop :=
  decode [0x09#8, 0x01#8, 0x03#8, 0x00#8, 0x00#8, 0x00#8, 0x34#8, 0x01#8] = .ok (.axrwrEhfr 3#4 0x0134#16, []) ∧
  decode [0x2A#8, 0x00#8, 0x0F#8, 0x00#8, 0x00#8, 0x00#8, 0x00#8, 0x00#8] = .ok (.axrrdDevspec20 15#4 0x2A#8, []) ∧
  decode [0x00#8, 0x05#8, 0x00#8, 0x5A#8, 0x23#8, 0xC1#8, 0x00#8, 0x00#8] = .ok (.memwr 0xC123#16 0x5A#8, []) ∧
  decode [0x00#8, 0x0B#8, 0x00#8, 0x00#8, 0x00#8, 0x00#8, 0x42#8, 0x03#8] = .ok (.poweron 0x342#12, []) ∧
  decode [0x00#8, 0x0D#8, 0x00#8, 0x00#8, 0x00#8, 0x00#8, 0xFF#8, 0xC0#8] = .ok (.ldHlNn 0xC0FF#16, [])

/-- One step is the host's next operation, whose bytes it takes away, or, while none is pending, one instruction of the
PROC; bytes that are no operation stop the machine (R19, R133, R134; log entry 4). -/
def Obligations.StepRunsTheDecodedOperation : Prop :=
  ∀ s : State,
    (s.pending = [] → step s = exec .procstep s) ∧
    (∀ i rest, decode s.pending = .ok (i, rest) → step s = exec i (s.withPending rest)) ∧
    (∀ e, s.pending ≠ [] → decode s.pending = .error e → step s = .fault (.notAnOperation e))

/-! ## Reset and Power-On -/

/-- Right after reset each device has the mode and the suspension its configuration asks for, is not shut down, and has
the Shutdown flag set in the entries of its compulsory and protection events alone (R45, R184, R187; the configuration is
the launch configuration of log entry 11, the other flag bits log entry 18, the pc log entry 15). -/
def Obligations.ResetState : Prop :=
  State.reset.core.pc = 0x0000#16 ∧
  ∀ (id : DevId) (d : Device), State.reset.dev? id = some d →
    d.post = d.spec.postCode ∧
    d.mode = (if State.reset.poc.getLsbD 9 then .monitor else .compatible) ∧
    d.susp = State.reset.poc.getLsbD 8 ∧
    d.shut = false ∧
    ∀ c k, eventKind d.spec.kinds c = some k → d.flags c = if k = .breakpoint then 0x0000#16 else 0x0400#16

/-- The state after reset meets the machine's invariant. -/
def Obligations.ResetMeetsInvariant : Prop := State.reset.wf = true

/-- Power-On with any configuration, in any state: every device starts in the mode of configuration bit 9, suspended by
bit 8, and out of Shutdown (R180, R184). -/
def Obligations.PowerOnModeSuspensionShutdown : Prop :=
  ∀ (s : State) (cfg : BitVec 12), s.postPassed = true →
    ∃ t, exec (.poweron cfg) s = .next t ∧
      ∀ (id : DevId) (d : Device), s.dev? id = some d →
        ∃ e, t.dev? id = some e ∧ e.mode = (if cfg.getLsbD 9 then .monitor else .compatible) ∧ e.susp = cfg.getLsbD 8 ∧
          e.shut = false

/-- Power-On sets the registers the spec gives a value: each device keeps its ID and its constants and records its POST
code, all sample the configuration, its bits 9 to 6, 1, 0 and the SMS1 Bus bit, which is bit 4 or bit 3 (log entry 36), the
reserved bits being 0; the pc is `$0000`; and the memory device the Boot Device code
names (%00 BROM, %01 CARD, %10 EXT0, %11 EXT1) is mapped: it and no other answers the boot regions (R181 steps 1 to 3, R27,
R185, R186, R189; log entries 15, 34, 40; that the regions are the same for all four is the model's choice, log entry
48). -/
def Obligations.PowerOnRegistersAndBoot : Prop :=
  ∀ (s : State) (cfg : BitVec 12), s.postPassed = true →
    ∃ t, exec (.poweron cfg) s = .next t ∧ t.hw = s.hw ∧
      t.poc = cfg &&& (if s.hw.sms1Bit = .bit4 then 0x3D3#12 else 0x3CB#12) ∧ t.bootMap = cfg.extractLsb' 0 2 ∧ t.core.pc = 0x0000#16 ∧
      t.pending = s.pending ∧
      (∀ (id : DevId) (d : Device), s.dev? id = some d →
        ∃ e, t.dev? id = some e ∧ e.spec = d.spec ∧ e.post = d.spec.postCode) ∧
      ∀ p ∈ [(0b00#2, s.hw.bromId), (0b01#2, s.hw.cardId), (0b10#2, s.hw.ext0Id), (0b11#2, s.hw.ext1Id)],
        cfg.extractLsb' 0 2 = p.1 → ∀ (a : Word) (r : MemRegion),
          (s.hw.memMap.find? fun r => inRange r.lo r.hi a) = some r → r.target = .boot →
          t.memTarget a = (t.answering p.2).map fun d => (p.2, d, r.store)

/-- At Power-On the entry of every compulsory and every protection event has the Shutdown flag alone, that of every
breakpoint event no flag; reserved bits are 0 in every entry (R187, R22; the other flags being 0 is log entry 18). -/
def Obligations.PowerOnDefaultFlags : Prop :=
  ∀ (s : State) (cfg : BitVec 12), s.postPassed = true →
    ∃ t, exec (.poweron cfg) s = .next t ∧
      ∀ (id : DevId) (d : Device), s.dev? id = some d →
        ∃ e, t.dev? id = some e ∧ ∀ c : Byte,
          (∀ k, eventKind d.spec.kinds c = some k → e.flags c = if k = .breakpoint then 0x0000#16 else 0x0400#16) ∧
          e.flags c &&& 0x38FF#16 = 0x0000#16

/-- A device that fails its Power-On Self Test: Power-On is refused (R183; log entry 32). -/
def Obligations.PowerOnRefusesFailedPost : Prop :=
  ∀ (s : State) (cfg : BitVec 12) (id : DevId) (d : Device), s.dev? id = some d → d.spec.postCode ≠ 0#4 →
    exec (.poweron cfg) s = .refused .postFailed

/-! ## The whole machine -/

/-- Every step keeps the invariant: sixteen Device IDs, tables and memory in canonical form, reserved bits 0 in the event
handling flags, DEFR and the sampled configuration (R22, R27), all devices in one mode and suspended and shut down
together (R159, R163). -/
def Obligations.StepKeepsInvariant : Prop := ∀ s t : State, s.wf = true → step s = .next t → t.wf = true

/-- No step but Power-On in Compatible Mode brings a device out of Monitor Mode. R159 says of leaving it "not specified": that
nothing else leaves it is the model's choice, deduced from R156, whose sentence the spec marks as its decision D16 (log entry
28). -/
def Obligations.OnlyPowerOnLeavesMonitorMode : Prop :=
  ∀ (s t : State) (id : DevId) (d : Device), step s = .next t → s.dev? id = some d → d.mode = .monitor →
    (∃ e, t.dev? id = some e ∧ e.mode = .monitor) ∨
    ∃ cfg rest, decode s.pending = .ok (.poweron cfg, rest) ∧ cfg.getLsbD 9 = false

/-- No step but Power-On brings a device out of Shutdown (R148, R180). -/
def Obligations.OnlyPowerOnLeavesShutdown : Prop :=
  ∀ (s t : State) (id : DevId) (d : Device), step s = .next t → s.dev? id = some d → d.shut = true →
    (∃ e, t.dev? id = some e ∧ e.shut = true) ∨ ∃ cfg rest, decode s.pending = .ok (.poweron cfg, rest)

/-- A suspension ends by RESUME, of a system that is suspended and not shut down, or by Power-On, and by nothing else (R135,
R146, R165). -/
def Obligations.OnlyResumeOrPowerOnEndsSuspension : Prop :=
  ∀ (s t : State) (id : DevId) (d : Device), step s = .next t → s.dev? id = some d → d.susp = true →
    (∃ e, t.dev? id = some e ∧ e.susp = true) ∨
    (∃ rest, decode s.pending = .ok (.resume, rest) ∧ d.shut = false) ∨
    ∃ cfg rest, decode s.pending = .ok (.poweron cfg, rest)

/-- No step changes the machine's parameters: which devices there are and with which IDs, their constants, kinds and
conditions of events, the address map (R44, R26; that the address map and the conditions of events are parameters which
never change is the model's choice, log entry 2, as is that software cannot map another boot device, log entry 34). -/
def Obligations.ConfigurationNeverChanges : Prop := ∀ s t : State, step s = .next t → t.config = s.config

/-- Only Power-On changes the sampled configuration, the mapped boot device, a POST code or whether a device is enabled
(R23, R27, R44; that nothing else enables or disables a device, or maps another one, is log entries 33 and 34). -/
def Obligations.PowerOnSettingsKept : Prop :=
  ∀ s t : State, step s = .next t → (∀ cfg rest, decode s.pending ≠ .ok (.poweron cfg, rest)) →
    t.poc = s.poc ∧ t.bootMap = s.bootMap ∧
    ∀ (id : DevId) (d : Device), s.dev? id = some d → ∃ e, t.dev? id = some e ∧ e.post = d.post ∧ e.enab = d.enab

/-- DECR, DEAR, DEDR and DEFR keep their values until an event triggers: no step in which none does changes them, Power-On
apart (R35 to R38, R144). -/
def Obligations.EventRecordRetained : Prop :=
  ∀ s t : State, step s = .next t → (∀ cfg rest, decode s.pending ≠ .ok (.poweron cfg, rest)) →
    t.answer ≠ .stopped → t.answer ≠ .event .stopped →
    ∀ (id : DevId) (d : Device), s.dev? id = some d →
      ∃ e, t.dev? id = some e ∧ e.decr = d.decr ∧ e.dear = d.dear ∧ e.dedr = d.dedr ∧ e.defr = d.defr

/-! ## The AGAMA Extension Registers -/

/-- DIR, POCR, DMR and DVR of a device that answers: what they read, and that a write which its events let be carried out
(R151; log entry 8) is discarded with `AxrWriteError` if it is of another value and does nothing if of the same (R103 to
R106). -/
def Obligations.FixedRegisters : Prop :=
  ∀ (s : State) (id : DevId) (d : Device) (v : Word), s.answering id = some d →
    exec (.axrrdDir id) s = .next (s.withAnswer (.word (0#12 ++ id))) ∧
    (d.carriesOut (.axrWrite 0x00#8 v) = true →
      exec (.axrwrDir id v) s = .next (s.withAnswer (if v = 0#12 ++ id then .done else .axrWriteError))) ∧
    exec (.axrrdPocr id) s = .next (s.withAnswer (.word (d.post ++ s.poc))) ∧
    (d.carriesOut (.axrWrite 0x01#8 v) = true →
      exec (.axrwrPocr id v) s = .next (s.withAnswer (if v = d.post ++ s.poc then .done else .axrWriteError))) ∧
    exec (.axrrdDmr id) s = .next (s.withAnswer (.word d.spec.model)) ∧
    (d.carriesOut (.axrWrite 0x02#8 v) = true →
      exec (.axrwrDmr id v) s = .next (s.withAnswer (if v = d.spec.model then .done else .axrWriteError))) ∧
    exec (.axrrdDvr id) s = .next (s.withAnswer (.word d.spec.version)) ∧
    (d.carriesOut (.axrWrite 0x03#8 v) = true →
      exec (.axrwrDvr id v) s = .next (s.withAnswer (if v = d.spec.version then .done else .axrWriteError)))

/-- DSR of a device that answers, bit by bit: the summaries of the silent flags over the whole table, Enabled 1 and Shutdown
0, the mode, the suspension, the device-specific bits where they are fixed; no write that events let be carried out (log
entry 8) changes it (R30, R107). -/
def Obligations.StatusRegister : Prop :=
  ∀ (s : State) (id : DevId) (d : Device), s.answering id = some d → d.wf = true →
    ∃ (v : Word) (n : Nat),
      exec (.axrrdDsr id) s = .next ((s.drawn n).withAnswer (.word v)) ∧
      (∀ w : Word, d.carriesOut (.axrWrite 0x04#8 w) = true →
        exec (.axrwrDsr id w) s = .next ((s.drawn n).withAnswer (if w = v then .done else .axrWriteError))) ∧
      (v.getLsbD 15 = true ↔ ∃ c, (d.flags c).getLsbD 15 = true) ∧
      (v.getLsbD 14 = true ↔ ∃ c, (d.flags c).getLsbD 14 = true) ∧
      v.getLsbD 11 = true ∧ v.getLsbD 10 = false ∧ (v.getLsbD 9 = true ↔ d.mode = .monitor) ∧ v.getLsbD 8 = d.susp ∧
      ∀ b, d.spec.dsrSpecific = some b →
        n = 0 ∧ v.extractLsb' 12 2 = b.extractLsb' 8 2 ∧ v.extractLsb' 0 8 = b.extractLsb' 0 8

/-- The reserved registers AXR05, AXR06, AXR07 and AXR0B read `$0000`; of the writes that events let be carried out (log
entry 8) one of `$0000` is accepted and changes nothing, any other is discarded (R34, R108). -/
def Obligations.ReservedRegisters : Prop :=
  ∀ (s : State) (id : DevId) (d : Device) (v : Word), s.answering id = some d →
    (∀ i ∈ [Instr.axrrdReserved05 id, .axrrdReserved06 id, .axrrdReserved07 id, .axrrdReserved0B id],
      exec i s = .next (s.withAnswer (.word 0x0000#16))) ∧
    ∀ p ∈ [(0x05#8, Instr.axrwrReserved05 id v), (0x06#8, .axrwrReserved06 id v), (0x07#8, .axrwrReserved07 id v),
        (0x0B#8, .axrwrReserved0B id v)],
      d.carriesOut (.axrWrite p.1 v) = true →
        exec p.2 s = .next (s.withAnswer (if v = 0x0000#16 then .done else .axrWriteError))

/-- DECR, DEAR, DEDR and DEFR read what the last trigger recorded; no write that events let be carried out (R151; log entry
8) changes them (R114 to R117). -/
def Obligations.EventRecordRegisters : Prop :=
  ∀ (s : State) (id : DevId) (d : Device) (v : Word), s.answering id = some d →
    exec (.axrrdDecr id) s = .next (s.withAnswer (.word (0#8 ++ d.decr))) ∧
    (d.carriesOut (.axrWrite 0x0C#8 v) = true →
      exec (.axrwrDecr id v) s = .next (s.withAnswer (if v = 0#8 ++ d.decr then .done else .axrWriteError))) ∧
    exec (.axrrdDear id) s = .next (s.withAnswer (.word d.dear)) ∧
    (d.carriesOut (.axrWrite 0x0D#8 v) = true →
      exec (.axrwrDear id v) s = .next (s.withAnswer (if v = d.dear then .done else .axrWriteError))) ∧
    exec (.axrrdDedr id) s = .next (s.withAnswer (.word d.dedr)) ∧
    (d.carriesOut (.axrWrite 0x0E#8 v) = true →
      exec (.axrwrDedr id v) s = .next (s.withAnswer (if v = d.dedr then .done else .axrWriteError))) ∧
    exec (.axrrdDefr id) s = .next (s.withAnswer (.word d.defr)) ∧
    (d.carriesOut (.axrWrite 0x0F#8 v) = true →
      exec (.axrwrDefr id v) s = .next (s.withAnswer (if v = d.defr then .done else .axrWriteError)))

/-- EHCR reads the selected event code; a write that events let be carried out (R151; log entry 8), with bits 15:8 zero,
selects the code in bits 7:0 and changes nothing else, so that EHFR then shows that code's flags; any other write is
discarded whole (R109, R110). -/
def Obligations.EhcrRegister : Prop :=
  ∀ (s : State) (id : DevId) (d : Device) (v : Word), s.answering id = some d →
    exec (.axrrdEhcr id) s = .next (s.withAnswer (.word (0#8 ++ d.ehcr))) ∧
    (d.carriesOut (.axrWrite 0x08#8 v) = true →
      if v.extractLsb' 8 8 = 0#8 then
        ∃ t, exec (.axrwrEhcr id v) s = .next t ∧
          t = (s.setDev id { d with ehcr := v.extractLsb' 0 8 }).withAnswer .done ∧
          exec (.axrrdEhfr id) t = .next (t.withAnswer (.word (d.flags (v.extractLsb' 0 8))))
      else exec (.axrwrEhcr id v) s = .next (s.withAnswer .axrWriteError))

/-- EHFR reads the flags of the selected code, as they stand at the read; a write that events let be carried out (log entry
8), with the reserved bits zero, replaces them, and no other entry, with the value written; any other is discarded whole
(R111, R112). That the window is live, not a copy made when EHCR was written, is the model's choice (log entry 23; R32 and
R111 mark it the spec's decision D8). -/
def Obligations.EhfrRegister : Prop :=
  ∀ (s : State) (id : DevId) (d : Device) (v : Word), s.answering id = some d → d.wf = true →
    exec (.axrrdEhfr id) s = .next (s.withAnswer (.word (d.flags d.ehcr))) ∧
    (d.carriesOut (.axrWrite 0x09#8 v) = true →
      if v &&& 0x38FF#16 = 0x0000#16 then
        ∃ e, exec (.axrwrEhfr id v) s = .next ((s.setDev id e).withAnswer .done) ∧ e = { d with eht := e.eht } ∧
          ∀ c, e.flags c = if c = d.ehcr then v else d.flags c
      else exec (.axrwrEhfr id v) s = .next (s.withAnswer .axrWriteError))

/-- EMVR reads its value and takes every value that is written and that events let be carried out (R113, R151; log entry
8). -/
def Obligations.EmvrRegister : Prop :=
  ∀ (s : State) (id : DevId) (d : Device) (v : Word), s.answering id = some d →
    exec (.axrrdEmvr id) s = .next (s.withAnswer (.word d.emvr)) ∧
    (d.carriesOut (.axrWrite 0x0A#8 v) = true →
      exec (.axrwrEmvr id v) s = .next ((s.setDev id { d with emvr := v }).withAnswer .done))

/-- A device-specific AXR, its writes where events let them be carried out (log entry 8): one the device does not implement
reads `$0000` and discards every other value written; one with storage reads what it holds and takes the writable bits, by
the discard rule; one whose behaviour is not fixed reads a free value and accepts every write (R21, R70, R118; log entry 21,
which also takes the reads and writes to have no side effect). -/
def Obligations.DeviceSpecificRegisters : Prop :=
  ∀ (s : State) (id : DevId) (d : Device) (n : Byte) (v : Word), s.answering id = some d →
    (∀ i ∈ [Instr.axrrdDevspec10 id n, .axrrdDevspec20 id n, .axrrdDevspec40 id n, .axrrdDevspec80 id n],
      exec i s = match devAxrKind d.spec.axrs n with
        | none => .next (s.withAnswer (.word 0x0000#16))
        | some (.storage _ _) => .next (s.withAnswer (.word (d.devAxr.get n.toNat)))
        | some .unfixed => .next ((s.drawn 1).withAnswer (.word (Config.freeBits 16 s.draws)))) ∧
    ∀ i ∈ [Instr.axrwrDevspec10 id n v, .axrwrDevspec20 id n v, .axrwrDevspec40 id n v, .axrwrDevspec80 id n v],
      d.carriesOut (.axrWrite n v) = true →
      exec i s = match devAxrKind d.spec.axrs n with
        | none => .next (s.withAnswer (if v = 0x0000#16 then .done else .axrWriteError))
        | some (.storage w _) =>
          let cur := d.devAxr.get n.toNat
          if (v ^^^ cur) &&& ~~~w = 0x0000#16 then
            .next ((s.setDev id { d with devAxr := d.devAxr.set n.toNat ((cur &&& ~~~w) ||| (v &&& w)) }).withAnswer .done)
          else .next (s.withAnswer .axrWriteError)
        | some .unfixed => .next ((s.drawn 1).withAnswer .done)

/-- An AXR access to an ID that no device holds, or whose device is disabled or shut down: a read returns a free value, a
write changes nothing (R66, R100, R101; log entry 30). -/
def Obligations.UnansweredAxr : Prop :=
  ∀ (s : State) (id : DevId) (n : Byte) (v : Word) (i : Instr),
    (∀ d, s.dev? id = some d → d.enab = false ∨ d.shut = true) →
    (ReadsAxr i id n → exec i s = .next ((s.drawn 1).withAnswer (.word (Config.freeBits 16 s.draws)))) ∧
    (WritesAxr i id n v → exec i s = .next (s.withAnswer .done))

/-- The discard rule, for every pre-defined register, with `cur` what the register reads before: a write that would change
a bit outside the writable ones is discarded whole and reported; any other sets the writable bits, which the register then
reads. The write is one that the device's events let be carried out (R102; the report is log entry 7, events of AXR
writes log entry 8). -/
def Obligations.WriteCheckedDiscards : Prop :=
  ∀ (s : State) (id : DevId) (d : Device) (n : Byte) (v : Word), s.answering id = some d → n.toNat < 16 →
    (n = 0x04#8 → d.spec.dsrSpecific ≠ none) →
    d.carriesOut (.axrWrite n v) = true →
    ∃ (cur : Word) (t : State), exec (.axrrd id n) s = .next (s.withAnswer (.word cur)) ∧
      exec (.axrwr id n v) s = .next t ∧
      if (v ^^^ cur) &&& ~~~(writableBits n) = 0x0000#16 then
        t.answer = .done ∧
        exec (.axrrd id n) t = .next (t.withAnswer (.word ((cur &&& ~~~(writableBits n)) ||| (v &&& writableBits n))))
      else t = s.withAnswer .axrWriteError

/-- The frame of the AXR operations that no event stops. A read changes nothing but how many free values were drawn. A write
reaches one register of one device: EHCR, the EHFR entry selected, EMVR or a device-specific AXR (R20, R65, R100, R101).
R70 and R118 leave the side effects of device-specific AXRs open: that a read of one changes nothing, and a write of one
nothing but itself, is the model's choice (log entry 21). -/
def Obligations.AxrFrame : Prop :=
  ∀ (s t : State) (id : DevId) (n : Byte) (i : Instr), exec i s = .next t → t.answer ≠ .stopped →
    (ReadsAxr i id n → ∃ k a, t = (s.drawn k).withAnswer a) ∧
    ∀ v, WritesAxr i id n v →
      t.hw = s.hw ∧ t.core = s.core ∧ t.poc = s.poc ∧ t.bootMap = s.bootMap ∧ t.busLast = s.busLast ∧ t.mem = s.mem ∧
      t.pending = s.pending ∧ (∀ id', id' ≠ id → t.dev? id' = s.dev? id') ∧
      ∀ d, s.dev? id = some d → ∃ e, t.dev? id = some e ∧
        e = { d with ehcr := e.ehcr, eht := e.eht, emvr := e.emvr, devAxr := e.devAxr } ∧
        (n ≠ 0x08#8 → e.ehcr = d.ehcr) ∧ (n ≠ 0x09#8 → e.eht = d.eht) ∧ (n ≠ 0x0A#8 → e.emvr = d.emvr) ∧
        (∀ c, c ≠ d.ehcr → e.flags c = d.flags c) ∧ ∀ j, j ≠ n.toNat → e.devAxr.get j = d.devAxr.get j

/-- The source's procedure for programming an event, where events let both writes be carried out: select its code through
EHCR, write the flags through EHFR; the table then holds these flags for this event, and for every other what it held (R119,
R191). -/
def Obligations.ProgramEventHandling : Prop :=
  ∀ (s : State) (id : DevId) (d : Device) (c : Byte) (f : Word), s.answering id = some d → d.wf = true →
    f &&& 0x38FF#16 = 0x0000#16 → d.carriesOut (.axrWrite 0x08#8 (0#8 ++ c)) = true →
    d.carriesOut (.axrWrite 0x09#8 f) = true →
    ∃ t u, exec (.axrwr id 0x08#8 (0#8 ++ c)) s = .next t ∧ exec (.axrwr id 0x09#8 f) t = .next u ∧
      ∃ e, u.dev? id = some e ∧ ∀ c', e.flags c' = if c' = c then f else d.flags c'

/-! ## Byte transactions -/

/-- A memory read that the selected device answers: of a stored byte, where no event prevents the read, that byte; where
the read is prohibited or the region's contents are not fixed, a free byte. Either is driven on the bus, and nothing else
changes (R62, R67, R151; log entry 20 for the regions). -/
def Obligations.MemReadAnswered : Prop :=
  ∀ (s : State) (a : Word),
    (∀ b, s.storedByte a = some b → exec (.memrd a) s = .next ((s.withBus b).withAnswer (.byte b))) ∧
    ∀ id d st, s.memTarget a = some (id, d, st) → (d.detects (.memRead a)).all d.passes = true → s.storedByte a = none →
      ∃ b, b = Config.freeBits 8 s.draws ∧ exec (.memrd a) s = .next (((s.withBus b).drawn 1).withAnswer (.byte b))

/-- A memory or port read that nobody answers returns the last byte driven on an SMS1-type bus, which bit 4 or bit 3 of the
sampled configuration selects (R27; log entry 36), and `$FF` on the other, and changes nothing. A byte that is written, and a byte an answered read returns, is the last byte driven (R67, R42); that this
holds of a write that an event stops or a protection event throws out and of a prohibited read, that a stopped read drives
nothing, and that the AXR operations and the system message drive nothing is the model's choice (log entry 9). -/
def Obligations.UndrivenReadAndBusLatch : Prop :=
  ∀ (s t : State) (a : Word) (p b v : Byte),
    (s.memTarget a = none →
      exec (.memrd a) s =
        .next (s.withAnswer (.byte (if s.poc.getLsbD (if s.hw.sms1Bit = .bit4 then 4 else 3) then s.busLast else 0xFF#8)))) ∧
    (s.portTarget p = none →
      exec (.portrd p) s =
        .next (s.withAnswer (.byte (if s.poc.getLsbD (if s.hw.sms1Bit = .bit4 then 4 else 3) then s.busLast else 0xFF#8)))) ∧
    (exec (.memwr a b) s = .next t → t.busLast = b) ∧
    (exec (.portwr p b) s = .next t → t.busLast = b) ∧
    (exec (.memrd a) s = .next t → s.memTarget a ≠ none → t.answer = .byte v → t.busLast = v) ∧
    (exec (.portrd p) s = .next t → s.portTarget p ≠ none → t.answer = .byte v → t.busLast = v) ∧
    (exec (.memrd a) s = .next t ∨ exec (.portrd p) s = .next t → t.answer = .stopped → t.busLast = s.busLast) ∧
    (∀ i id n w, ReadsAxr i id n ∨ WritesAxr i id n w → exec i s = .next t → t.busLast = s.busLast) ∧
    (exec .sysmsgClearsilentflags s = .next t → t.busLast = s.busLast)

/-- A memory or port write that nobody answers changes no device and no memory: it only drives its byte (R66, R67). -/
def Obligations.UnansweredWrites : Prop :=
  ∀ (s : State) (a : Word) (p b : Byte),
    (s.memTarget a = none → exec (.memwr a b) s = .next ((s.withBus b).withAnswer .done)) ∧
    (s.portTarget p = none → exec (.portwr p b) s = .next ((s.withBus b).withAnswer .done))

/-- A memory write that a writable region answers, where no event prevents it, stores the byte at the device and address,
and changes no other byte of memory and nothing else but the bus latch (R62, R67, R69). -/
def Obligations.MemWriteStores : Prop :=
  ∀ (s : State) (a : Word) (b : Byte) (id : DevId) (d : Device), s.memTarget a = some (id, d, .ram) →
    (d.detects (.memWrite a b)).all d.passes = true → d.protects (d.detects (.memWrite a b)) = false →
    ∃ t, exec (.memwr a b) s = .next t ∧ t = ((s.withBus b).withMem t.mem).withAnswer .done ∧
      ∀ cell, t.mem.byte cell = if cell = cellOf id a then b else s.mem.byte cell

/-- A memory write whose action a silenced or ignored protection event prohibits leaves memory unchanged, and so does one
to a region that stores no writes; the write still occurs on the bus and the initiator goes on (R138, R151; ROM and unfixed
regions: log entries 16 and 20). -/
def Obligations.MemWriteThrownOut : Prop :=
  ∀ (s : State) (a : Word) (b : Byte) (id : DevId) (d : Device) (st : StoreKind), s.memTarget a = some (id, d, st) →
    (d.detects (.memWrite a b)).all d.passes = true → d.protects (d.detects (.memWrite a b)) = true ∨ st ≠ .ram →
    exec (.memwr a b) s = .next ((s.withBus b).withAnswer .done)

/-- A port transaction that a device answers, where no event stops it: a read returns a free byte, which it drives; a write
drives its byte; what the device does is not in the spec (R64, R69, R70; log entry 20). -/
def Obligations.PortTransactions : Prop :=
  ∀ (s : State) (p b : Byte) (id : DevId) (d : Device), s.portTarget p = some (id, d) →
    ((d.detects (.portRead p)).all d.passes = true →
      ∃ x, x = Config.freeBits 8 s.draws ∧ exec (.portrd p) s = .next (((s.withBus x).drawn 1).withAnswer (.byte x))) ∧
    ((d.detects (.portWrite p b)).all d.passes = true →
      exec (.portwr p b) s = .next ((s.withBus b).withAnswer .done))

/-- A read returns the latest byte written to the same address of a device that stores writes (R73 and R76, which the spec
marks as its decisions D3 and D4: log entry 35), and a write to one address leaves what another reads: the model's choice,
since no mirror and no paging is modelled (log entry 16). -/
def Obligations.MemReadAfterWrite : Prop :=
  ∀ (s : State) (a : Word) (b : Byte) (id : DevId) (d : Device), s.memTarget a = some (id, d, .ram) →
    (d.detects (.memWrite a b)).all d.passes = true → d.protects (d.detects (.memWrite a b)) = false →
    ∃ t, exec (.memwr a b) s = .next t ∧
      (∀ b₀, s.storedByte a = some b₀ → ∃ u, exec (.memrd a) t = .next u ∧ u.answer = .byte b) ∧
      ∀ a' b', a' ≠ a → s.storedByte a' = some b' → ∃ u, exec (.memrd a') t = .next u ∧ u.answer = .byte b'

/-- A 16-bit memory access is two byte accesses, the low byte at the lower address and first, the address wrapping (R60,
R68): the access is the write of the low byte at `a` followed by the write of the high byte at `a + 1`. An event on the
second byte finds the first one stored, and keeps it stored (R69, R153); where both are carried out the word is stored that
way, whatever the address, the high byte is the last byte driven (R67), and the word is read back in the same order, its high
byte then driven last. No alignment, and one transaction at a time, are log entry 35; that the write of the high byte drives
the bus latch even where an event stops it is the model's choice (log entry 9). -/
def Obligations.WordAccessIsLittleEndian : Prop :=
  ∀ (s : State) (a v : Word) (lo hi : Byte) (id id' : DevId) (d d' : Device),
    lo = v.extractLsb' 0 8 → hi = v.extractLsb' 8 8 →
    s.memTarget a = some (id, d, .ram) → s.memTarget (a + 1) = some (id', d', .ram) →
    d.carriesOut (.memWrite a lo) = true →
    (∃ t₁ : State, exec (.memwr a lo) s = .next (t₁.withAnswer .done) ∧ t₁.answer = s.answer ∧
      s.memWriteWord a v = t₁.memWrite (a + 1) hi) ∧
    ((d'.detects (.memWrite (a + 1) hi)).all d'.passes = false →
      (∃ r, s.memWriteWord a v = .refused r) ∨
      ∃ t, s.memWriteWord a v = .stopped t ∧ t.busLast = hi ∧
        ∀ cell, t.mem.byte cell = if cell = cellOf id a then lo else s.mem.byte cell) ∧
    (d'.carriesOut (.memWrite (a + 1) hi) = true →
      ∃ t, s.memWriteWord a v = .done () t ∧ t.busLast = hi ∧
        t.mem.byte (cellOf id a) = lo ∧ t.mem.byte (cellOf id' (a + 1)) = hi ∧
        (∀ cell, cell ≠ cellOf id a → cell ≠ cellOf id' (a + 1) → t.mem.byte cell = s.mem.byte cell) ∧
        (d.carriesOut (.memRead a) = true → d'.carriesOut (.memRead (a + 1)) = true →
          ∃ u, t.memReadWord a = .done v u ∧ u.busLast = hi))

/-- An AXR read raises no event: it is always performed, reports a word and changes nothing but how many free values were
drawn (R70, R100; of a device-specific AXR this is the model's choice, log entry 21). What becomes of the action of a memory
or port transaction or an AXR write that a device answers, by the codes it raises (R141, R151; AXR writes: log entry 8).
Where every code passes the operation is performed: the PROC's registers stay, an action that a protection event prohibits
changes no device and no memory (a prohibited AXR write is thrown out), and a memory write is stored if it is carried out
and the region is writable. Where some code does not pass, the operation ends as the event of such a code does when it is
performed by itself: it is stopped, with that event's effect on every device and on the pc (R142, R145 to R148, R150), an
address and data as R144 says, and memory as it was; or it is refused as that event is. -/
def Obligations.ActionAfterEvents : Prop :=
  ∀ (s : State) (i : Instr) (id : DevId),
    (∀ n, ReadsAxr i id n → ∃ v k, exec i s = .next ((s.drawn k).withAnswer (.word v))) ∧
    ∀ (d : Device) (tx : Tx), Issues s i id d tx →
    ((d.detects tx).all d.passes = true →
      ∃ t, exec i s = .next t ∧ t.answer ≠ .stopped ∧ t.core = s.core ∧
        (d.protects (d.detects tx) = true → t.devs = s.devs ∧ t.mem = s.mem ∧
          ∀ n v, tx = .axrWrite n v → t = s.withAnswer .done) ∧
        ∀ a b st, tx = .memWrite a b → s.memTarget a = some (id, d, st) →
          t.mem = if d.protects (d.detects tx) = false ∧ st = .ram then s.mem.write (cellOf id a) b else s.mem) ∧
    ((∃ c ∈ d.detects tx, d.passes c = false) →
      ∃ c ∈ d.detects tx, d.passes c = false ∧ ∃ a x, tx.records a x ∧
        match exec (.event id c a x) s with
        | .next u => u.answer = .event .stopped ∧
            ∃ t, exec i s = .next t ∧ t.answer = .stopped ∧ t.devs = u.devs ∧ t.core = u.core ∧ t.mem = s.mem
        | .refused r => exec i s = .refused r
        | .fault _ => False)

/-- The frame of the byte transactions: one that is not stopped by an event changes no device, no register of the PROC and
no setting, and no byte of memory but the one a memory write stores (R62, R64, R69). That an answered port read or write
changes nothing of these is the model's choice, since the spec leaves the side effects of ports open (R70; log entry
20). -/
def Obligations.TransactionFrame : Prop :=
  ∀ (s t : State) (a : Word) (p b : Byte) (i : Instr),
    i ∈ [Instr.memrd a, .memwr a b, .portrd p, .portwr p b] → exec i s = .next t → t.answer ≠ .stopped →
    t.hw = s.hw ∧ t.devs = s.devs ∧ t.core = s.core ∧ t.poc = s.poc ∧ t.bootMap = s.bootMap ∧ t.pending = s.pending ∧
    ∀ cell, (∀ id d, i = .memwr a b → s.memTarget a = some (id, d, .ram) → cell ≠ cellOf id a) →
      t.mem.byte cell = s.mem.byte cell

/-- The frame of a memory or port transaction or an AXR write that an event stops, none stopping an AXR read (R70): no
memory, no setting and no register of the PROC but the pc changes, of every device the mode, suspension and shutdown at
most, and the table and the event record at the device that answers the transaction alone (R142, R144, R146 to R148, R150,
R151; AXR writes: log entry 8). -/
def Obligations.StoppedTransactionFrame : Prop :=
  ∀ (s t : State) (i : Instr), IsTransaction i → exec i s = .next t → t.answer = .stopped →
    t.hw = s.hw ∧ t.poc = s.poc ∧ t.bootMap = s.bootMap ∧ t.mem = s.mem ∧ t.pending = s.pending ∧
    t.core = { s.core with pc := t.core.pc } ∧
    ∃ id d tx, Issues s i id d tx ∧
      ∀ id' d', s.dev? id' = some d' → ∃ e, t.dev? id' = some e ∧
        e = { d' with mode := e.mode, susp := e.susp, shut := e.shut, eht := e.eht, decr := e.decr, dear := e.dear,
                      dedr := e.dedr, defr := e.defr } ∧
        (id' ≠ id → e.eht = d'.eht ∧ e.decr = d'.decr ∧ e.dear = d'.dear ∧ e.dedr = d'.dedr ∧ e.defr = d'.defr)

/-! ## Events -/

/-- An event is silenced exactly when it is not compulsory and the silent flag of the mode its device is in is set; then
nothing changes (R142, R143). -/
def Obligations.EventSilencedExactly : Prop :=
  ∀ (s : State) (id : DevId) (d : Device) (c : Byte) (k : EventKind) (a x : Word), s.dev? id = some d →
    eventKind d.spec.kinds c = some k →
    (exec (.event id c a x) s = .next (s.withAnswer (.event .silenced)) ↔
      k ≠ .compulsory ∧
        (d.mode = .compatible ∧ (d.flags c).getLsbD 15 = true ∨ d.mode = .monitor ∧ (d.flags c).getLsbD 14 = true))

/-- An unsilenced event whose entry names no handling mechanism: a breakpoint or protection event is ignored and nothing
changes, a compulsory one is refused (R142, R149; protection and compulsory events: log entry 27). -/
def Obligations.EventWithoutMechanism : Prop :=
  ∀ (s : State) (id : DevId) (d : Device) (c : Byte) (k : EventKind) (a x : Word), s.dev? id = some d →
    eventKind d.spec.kinds c = some k → silenced k d.mode (d.flags c) = false → d.flags c &&& 0x0700#16 = 0x0000#16 →
    exec (.event id c a x) s =
      if k = .compulsory then .refused .compulsoryEventUnhandled else .next (s.withAnswer (.event .ignored))

/-- How an unsilenced event is handled, by bits 9, 8 and 10 of its entry: Monitor Mode, with suspension if that is asked
for too; else suspension; else Shutdown. Every device changes. Monitor Mode is refused in Monitor Mode and where it is
absent (R145 to R148, R157, R160; all devices in one step is log entry 25, the refusals log entry 28). -/
def Obligations.EventMechanisms : Prop :=
  ∀ (s : State) (id : DevId) (d : Device) (c : Byte) (k : EventKind) (a x : Word), s.dev? id = some d →
    eventKind d.spec.kinds c = some k → silenced k d.mode (d.flags c) = false →
    ((d.flags c).getLsbD 9 = true → s.hw.monitorPresent = false →
      exec (.event id c a x) s = .refused .monitorModeAbsent) ∧
    ((d.flags c).getLsbD 9 = true → s.hw.monitorPresent = true → d.mode = .monitor →
      exec (.event id c a x) s = .refused .monitorModeReentry) ∧
    ((d.flags c).getLsbD 9 = true → s.hw.monitorPresent = true → d.mode = .compatible →
      ∃ t, exec (.event id c a x) s = .next t ∧ t.answer = .event .stopped ∧ t.core = { s.core with pc := d.emvr } ∧
        ∀ id' e, s.dev? id' = some e → ∃ e', t.dev? id' = some e' ∧ e'.mode = .monitor ∧
          e'.susp = (e.susp || (d.flags c).getLsbD 8) ∧ e'.shut = e.shut) ∧
    ((d.flags c).getLsbD 9 = false → (d.flags c).getLsbD 8 = true →
      ∃ t, exec (.event id c a x) s = .next t ∧ t.answer = .event .stopped ∧ t.core = s.core ∧
        ∀ id' e, s.dev? id' = some e → ∃ e', t.dev? id' = some e' ∧ e'.mode = e.mode ∧ e'.susp = true ∧
          e'.shut = e.shut) ∧
    ((d.flags c).getLsbD 9 = false → (d.flags c).getLsbD 8 = false → (d.flags c).getLsbD 10 = true →
      ∃ t, exec (.event id c a x) s = .next t ∧ t.answer = .event .stopped ∧ t.core = s.core ∧
        ∀ id' e, s.dev? id' = some e → ∃ e', t.dev? id' = some e' ∧ e'.mode = e.mode ∧ e'.susp = e.susp ∧
          e'.shut = true)

/-- What a trigger records at its device: the code, the event-specific address and data, and the flags as they stood before
or after the breakpoint's silencing; the same for the event that stops a memory or port transaction or an AXR write, with a
code the transaction raises and what R144 says of its address and data (R144; the bits left open: log entries 8, 10,
39). -/
def Obligations.EventRecordsTrigger : Prop :=
  ∀ (s t : State) (id : DevId) (d : Device),
    (∀ (c : Byte) (a x : Word), s.dev? id = some d → exec (.event id c a x) s = .next t → t.answer = .event .stopped →
      ∃ e, t.dev? id = some e ∧ e.decr = c ∧ e.dear = a ∧ e.dedr = x ∧
        e.defr = recordedFlags s.hw (d.flags c) e c) ∧
    ∀ (i : Instr) (tx : Tx), Issues s i id d tx → exec i s = .next t → t.answer = .stopped →
      ∃ e, t.dev? id = some e ∧ e.decr ∈ d.detects tx ∧ tx.records e.dear e.dedr ∧
        e.defr = recordedFlags s.hw (d.flags e.decr) e e.decr

/-- A breakpoint event that triggers sets the silent flag of the mode its device was in, or both, in its own entry; no other
entry, and no entry at a compulsory or protection event, changes (R150; `BP_SILENCE` is log entry 44). -/
def Obligations.BreakpointSilencesItself : Prop :=
  ∀ (s t : State) (id : DevId) (d : Device) (c : Byte) (k : EventKind) (a x : Word), s.dev? id = some d →
    eventKind d.spec.kinds c = some k → exec (.event id c a x) s = .next t → t.answer = .event .stopped →
    ∃ e, t.dev? id = some e ∧ ∀ c', e.flags c' =
      if c' = c ∧ k = .breakpoint then d.flags c ||| breakpointSilence s.hw d.mode else d.flags c'

/-- The frame of an event: it changes the PROC's pc at most, and of a device the mode, suspension and shutdown, and at the
device it occurs at the table and the event record; no memory, bus latch or other register (R142, R146 to R148, R154). -/
def Obligations.EventFrame : Prop :=
  ∀ (s t : State) (id : DevId) (c : Byte) (a x : Word), exec (.event id c a x) s = .next t →
    t.hw = s.hw ∧ t.poc = s.poc ∧ t.bootMap = s.bootMap ∧ t.busLast = s.busLast ∧ t.mem = s.mem ∧
    t.pending = s.pending ∧ t.core = { s.core with pc := t.core.pc } ∧
    ∀ id' d, s.dev? id' = some d → ∃ e, t.dev? id' = some e ∧
      e = { d with mode := e.mode, susp := e.susp, shut := e.shut, eht := e.eht, decr := e.decr, dear := e.dear,
                   dedr := e.dedr, defr := e.defr } ∧
      (id' ≠ id → e.eht = d.eht ∧ e.decr = d.decr ∧ e.dear = d.dear ∧ e.dedr = d.dedr ∧ e.defr = d.defr)

/-- An event code that its device does not define never occurs (R87; that the operation then only reports that it is not
enabled is log entry 41). -/
def Obligations.UndefinedEventNeverOccurs : Prop :=
  ∀ (s : State) (id : DevId) (d : Device) (c : Byte) (a x : Word), s.dev? id = some d →
    eventKind d.spec.kinds c = none → exec (.event id c a x) s = .next (s.withAnswer .notEnabled)

/-- A compulsory event whose entry names Suspend or Shutdown, and not Monitor Mode, always triggers, whatever its silent
flags and the mode (R137). -/
def Obligations.CompulsoryAlwaysTriggers : Prop :=
  ∀ (s : State) (id : DevId) (d : Device) (c : Byte) (a x : Word), s.dev? id = some d →
    eventKind d.spec.kinds c = some .compulsory → (d.flags c).getLsbD 9 = false →
    (d.flags c).getLsbD 8 = true ∨ (d.flags c).getLsbD 10 = true →
    ∃ t, exec (.event id c a x) s = .next t ∧ t.answer = .event .stopped

/-- A breakpoint event that has triggered and was not handled by Monitor Mode is silenced when it occurs again, so that the
instruction executed again passes it (R139, R150, R152; log entry 26). -/
def Obligations.BreakpointPassesOnRetry : Prop :=
  ∀ (s t : State) (id : DevId) (d : Device) (c : Byte) (a x : Word), s.dev? id = some d →
    eventKind d.spec.kinds c = some .breakpoint → (d.flags c).getLsbD 9 = false →
    exec (.event id c a x) s = .next t → t.answer = .event .stopped →
    exec (.event id c a x) t = .next (t.withAnswer (.event .silenced))

/-! ## The system message, resuming -/

/-- CLEARSILENTFLAGS reaches every device, in every state: in Compatible Mode it clears bits 15 and 14 of all 256 entries,
in Monitor Mode bit 14, and changes nothing else (R125, R126). That it reaches every device at once, and that both flags are
cleared in Compatible Mode, is the model's choice among two readings (log entry 24; R125 marks the spec's decision D14, R126
follows 90_conflicts.md C6). -/
def Obligations.ClearSilentFlagsMessage : Prop :=
  ∀ s : State, s.everyDev Device.wf = true →
    ∃ t, exec .sysmsgClearsilentflags s = .next t ∧
      t = { s with devs := t.devs, answer := .done } ∧
      ∀ (id : DevId) (d : Device), s.dev? id = some d → ∃ e, t.dev? id = some e ∧ e = { d with eht := e.eht } ∧
        ∀ c, e.flags c = match d.mode with
          | .compatible => d.flags c &&& ~~~0xC000#16
          | .monitor => d.flags c &&& ~~~0x4000#16

/-- RESUME of a system that is suspended and not shut down ends the suspension of every device and changes nothing else;
otherwise it is not enabled and changes nothing (R135; the report is log entry 6). -/
def Obligations.ResumeEndsSuspension : Prop :=
  ∀ s : State,
    ((∀ d, some d ∈ s.devs → d.susp = true ∧ d.shut = false) →
      ∃ t, exec .resume s = .next t ∧ t = { s with devs := t.devs, answer := .done } ∧
        ∀ id, t.dev? id = (s.dev? id).map fun d => { d with susp := false }) ∧
    ((∃ d, some d ∈ s.devs ∧ (d.susp = false ∨ d.shut = true)) →
      exec .resume s = .next (s.withAnswer .notEnabled))

/-- While every device is shut down, nothing but Power-On, and the event performed by itself that log entry 41 allows,
changes the PROC's registers, memory, a setting or a device, with two exceptions: a CLEARSILENTFLAGS message still clears
silent flags at every device, and a byte that is written still is the last byte driven (R148, R165, R66, R96, R125; that the
PROC is idle is log entry 29, the byte driven log entry 9). -/
def Obligations.ShutdownSystemIsDead : Prop :=
  ∀ (s t : State) (i : Instr), (∀ d, some d ∈ s.devs → d.shut = true) → exec i s = .next t →
    (∀ cfg, i ≠ .poweron cfg) → (∀ id c a x, i ≠ .event id c a x) →
    t.hw = s.hw ∧ t.poc = s.poc ∧ t.bootMap = s.bootMap ∧ t.core = s.core ∧ t.mem = s.mem ∧
    t.devs = (if i = .sysmsgClearsilentflags then s.clearSilentFlags.devs else s.devs) ∧
    ((∀ a b, i ≠ .memwr a b) → (∀ p b, i ≠ .portwr p b) → t.busLast = s.busLast)

/-! ## The PROC -/

/-- A PROC that is suspended or shut down executes no instruction (R96; the report is log entry 6, Shutdown log entry
29). -/
def Obligations.StoppedProcExecutesNothing : Prop :=
  ∀ (s : State) (d : Device) (nn : Word) (i : Instr), s.dev? s.hw.procId = some d → d.susp = true ∨ d.shut = true →
    i ∈ [Instr.procstep, .ldHlNn nn, .andAB] → exec i s = .next (s.withAnswer .notEnabled)

/-- `LD HL, nn` of a running PROC, where its three fetches are performed: HL takes the value, the pc moves past three
bytes, no other register changes, memory stays, and the silent flags are cleared if any was set (R92, R93, R127; beyond
the operand roles R93 is general knowledge, log entry 13; that R stays too is log entry 47; the bytes fetched are not looked
at, log entry 42). -/
def Obligations.LdHlLoadsImmediate : Prop :=
  ∀ (s : State) (d : Device) (nn : Word), s.runningProc = some d →
    s.readsThrough s.core.pc = true → s.readsThrough (s.core.pc + 1) = true → s.readsThrough (s.core.pc + 2) = true →
    ∃ t, exec (.ldHlNn nn) s = .next t ∧ t.answer = .completed ∧
      t.core = { s.core with h := nn.extractLsb' 8 8, l := nn.extractLsb' 0 8, pc := s.core.pc + 3 } ∧
      t.hw = s.hw ∧ t.poc = s.poc ∧ t.bootMap = s.bootMap ∧ t.mem = s.mem ∧ t.pending = s.pending ∧
      t.devs = if s.someDev Device.anySilent then s.clearSilentFlags.devs else s.devs

/-- `AND A, B` of a running PROC, where its fetch is performed: A takes the AND, S, Z, H, P/V, N and C follow the result,
the pc moves past one byte, no other register changes, memory stays, and the silent flags are cleared if any was set (R92,
R94, R127; beyond the operand roles R94 is general knowledge, log entry 13; that R stays too is log entry 47). -/
def Obligations.AndAccumulatesAndSetsFlags : Prop :=
  ∀ (s : State) (d : Device), s.runningProc = some d → s.readsThrough s.core.pc = true →
    ∃ t, exec .andAB s = .next t ∧ t.answer = .completed ∧
      t.core = { s.core with a := s.core.a &&& s.core.b, f := t.core.f, pc := s.core.pc + 1 } ∧
      t.core.f.getLsbD 7 = t.core.a.getLsbD 7 ∧ (t.core.f.getLsbD 6 = true ↔ t.core.a = 0#8) ∧
      t.core.f.getLsbD 4 = true ∧
      (t.core.f.getLsbD 2 = true ↔ ((List.range 8).countP fun n => t.core.a.getLsbD n) % 2 = 0) ∧
      t.core.f.getLsbD 1 = false ∧ t.core.f.getLsbD 0 = false ∧
      t.hw = s.hw ∧ t.poc = s.poc ∧ t.bootMap = s.bootMap ∧ t.mem = s.mem ∧ t.pending = s.pending ∧
      t.devs = if s.someDev Device.anySilent then s.clearSilentFlags.devs else s.devs

/-- A step of the PROC executes the instruction stored at its pc. Where the core's table gives the byte there the opcode of
`LD HL, nn` or of `AND A, B`, and the operand bytes follow, low byte first, the step is that instruction. The other rows of
the table: no operation; `LD A, n` and `LD B, n`; and `LD (nn), A`, which stores A at `nn` and nowhere else, where a writable
region answers and no event prevents it. The pc moves past the instruction, no other register changes, the byte of the last
transaction is left on the bus, and the silent flags are cleared if any was set (R76, R92, R93, R94, R99, R127; the table and
what its rows do is log entry 13). -/
def Obligations.ProcstepExecutesStoredInstruction : Prop :=
  ∀ (s : State) (d : Device) (op lo hi : Byte) (row : CoreOp) (devs : List (Option Device)), s.runningProc = some d →
    s.storedByte s.core.pc = some op → (s.hw.opcodes.find? fun r => r.bytes == [op]) = some ⟨[op], row⟩ →
    devs = (if s.someDev Device.anySilent then s.clearSilentFlags.devs else s.devs) →
    (row = .ldHlNn → s.storedByte (s.core.pc + 1) = some lo → s.storedByte (s.core.pc + 2) = some hi →
      ∃ t, exec .procstep s = .next t ∧ exec (.ldHlNn (hi ++ lo)) s = .next t) ∧
    (row = .andAB → ∃ t, exec .procstep s = .next t ∧ exec .andAB s = .next t) ∧
    (row = .nop → exec .procstep s = .next { s with
      core := { s.core with pc := s.core.pc + 1 }, devs := devs, busLast := op, answer := .completed }) ∧
    (row = .ldAn → s.storedByte (s.core.pc + 1) = some lo → exec .procstep s = .next { s with
      core := { s.core with a := lo, pc := s.core.pc + 2 }, devs := devs, busLast := lo, answer := .completed }) ∧
    (row = .ldBn → s.storedByte (s.core.pc + 1) = some lo → exec .procstep s = .next { s with
      core := { s.core with b := lo, pc := s.core.pc + 2 }, devs := devs, busLast := lo, answer := .completed }) ∧
    (row = .ldNnA → s.storedByte (s.core.pc + 1) = some lo → s.storedByte (s.core.pc + 2) = some hi →
      ∀ (id : DevId) (e : Device), s.memTarget (hi ++ lo) = some (id, e, .ram) →
        e.carriesOut (.memWrite (hi ++ lo) s.core.a) = true →
        ∃ t, exec .procstep s = .next t ∧
          t = { s with core := { s.core with pc := s.core.pc + 3 }, devs := devs, busLast := s.core.a, mem := t.mem,
                       answer := .completed } ∧
          ∀ cell, t.mem.byte cell = if cell = cellOf id (hi ++ lo) then s.core.a else s.mem.byte cell)

/-- An opcode the core does not know raises the compulsory event INVALID_INSTR at the PROC. A step of the PROC comes to such
an opcode, with memory and the devices as they were, where its table or the core's own answer says so of the bytes stored at
the pc. Wherever a step comes to one, in state `u`, the entry of the code decides, silent flags or not: no mechanism named,
the step is refused; else the code and the flags are recorded, no entry changes, memory stays, and the system enters Monitor
Mode, is suspended, or, by default or where Shutdown alone is named, enters Shutdown, with the PROC's registers as before the
step but for Monitor Mode's pc. Monitor Mode is refused in Monitor Mode and where it is absent (R88, R92, R95, R137, R145 to
R148, R157, R160; log entries 1, 10, 25, 27, 28). -/
def Obligations.InvalidOpcodeShutsDown : Prop :=
  ∀ s : State,
    (∀ d bs, s.runningProc = some d → s.storesAtPc bs → UnknownOpcode s.hw.opcodes d.mode s.core bs →
      ∃ p u, Executes s .procstep p ∧ Underway s p .unknownOpcode u ∧ u.devs = s.devs ∧ u.mem = s.mem) ∧
    ∀ (p : CoreProg) (u : State) (d : Device) (f : Word), Executes s .procstep p → Underway s p .unknownOpcode u →
      u.dev? s.hw.procId = some d → f = d.flags s.hw.invalidCode →
      (f &&& 0x0700#16 = 0x0000#16 → exec .procstep s = .refused .invalidOpcodeUnhandled) ∧
      (f.getLsbD 9 = true → s.hw.monitorPresent = false → exec .procstep s = .refused .monitorModeAbsent) ∧
      (f.getLsbD 9 = true → s.hw.monitorPresent = true → d.mode = .monitor →
        exec .procstep s = .refused .monitorModeReentry) ∧
      (f &&& 0x0700#16 ≠ 0x0000#16 → (f.getLsbD 9 = true → s.hw.monitorPresent = true ∧ d.mode = .compatible) →
        ∃ t, exec .procstep s = .next t ∧ t.answer = .stopped ∧ t.mem = u.mem ∧
          t.core = (if f.getLsbD 9 then { s.core with pc := d.emvr } else s.core) ∧
          (∀ id e, u.dev? id = some e → ∃ e', t.dev? id = some e' ∧
            e'.mode = (if f.getLsbD 9 then .monitor else e.mode) ∧ e'.susp = (e.susp || f.getLsbD 8) ∧
            e'.shut = (e.shut || (f.getLsbD 10 && !f.getLsbD 9 && !f.getLsbD 8)) ∧ ∀ c, e'.flags c = e.flags c) ∧
          ∃ e', t.dev? s.hw.procId = some e' ∧ e'.decr = s.hw.invalidCode ∧ e'.defr = f)

/-- An instruction whose program has come to its end completes: what its transactions left, in memory, in the devices' AXRs
and on the bus, stays; the PROC's private state becomes the one the program ends with; and where DSR bit 15 or 14 of some
device is then set the devices are as a CLEARSILENTFLAGS message leaves them, else as they were. Nothing else changes. Every
instruction that completes does so; afterwards no device in Compatible Mode has a silent flag set, and none in Monitor Mode a
Monitor Silent flag (R92 steps 1 and 4, R99, R127, R192; log entry 24). -/
def Obligations.CompletedInstructionClearsSilentFlags : Prop :=
  ∀ (s : State) (i : Instr),
    (∀ (p : CoreProg) (c : Core) (u : State), Executes s i p → Underway s p (.complete c) u →
      ∃ t, exec i s = .next t ∧ t = { u with core := c, devs := t.devs, answer := .completed } ∧
        ((∃ d b, some d ∈ u.devs ∧ ((d.dsr b).getLsbD 15 = true ∨ (d.dsr b).getLsbD 14 = true)) →
          ∃ w, exec .sysmsgClearsilentflags u = .next w ∧ t.devs = w.devs) ∧
        ((∀ d b, some d ∈ u.devs → (d.dsr b).getLsbD 15 = false ∧ (d.dsr b).getLsbD 14 = false) → t.devs = u.devs)) ∧
    ∀ (t : State) (nn : Word), i ∈ [Instr.procstep, .ldHlNn nn, .andAB] → exec i s = .next t → t.answer = .completed →
      (∃ p c u, Executes s i p ∧ Underway s p (.complete c) u) ∧
      ∀ (id : DevId) (e : Device), t.dev? id = some e →
        (e.mode = .compatible → ∀ c, (e.flags c).getLsbD 15 = false ∧ (e.flags c).getLsbD 14 = false) ∧
        (e.mode = .monitor → ∀ c, (e.flags c).getLsbD 14 = false)

/-- An instruction that an event stops is abandoned. Some of its own transactions were performed, in order, and stay
performed; then either the next transaction of its program is stopped, and the step ends as that transaction does, by an
event of a code which it raises at the device that answers it; or the program has met an unknown opcode and the PROC raises
INVALID_INSTR. The devices are as that one event leaves them, so no CLEARSILENTFLAGS is sent; the PROC's registers are as
before the instruction, but for a pc that is the EMVR of the device of that event where its entry asks for Monitor Mode;
`LD HL, nn` and `AND A, B` leave memory as it was. And whenever the next transaction of a program under way is stopped or
refused, so is the instruction (R92 steps 1 and 2, R95, R127, R144, R147, R154; log entry 26). -/
def Obligations.AbandonedInstructionKeepsRegisters : Prop :=
  ∀ (s : State) (i : Instr),
    (∀ t nn, i ∈ [Instr.procstep, .ldHlNn nn, .andAB] → exec i s = .next t → t.answer = .stopped →
      (i ≠ .procstep → t.mem = s.mem) ∧
      ∃ (p q : CoreProg) (u w : State) (id : DevId) (d : Device) (k : EventKind) (c : Byte) (a x : Word),
        Executes s i p ∧ Underway s p q u ∧
        ((∃ j tx, nextTransaction q = some j ∧ exec j u = .next t ∧ Issues u j id d tx ∧ c ∈ d.detects tx ∧
            eventKind d.spec.kinds c = some k ∧ tx.records a x) ∨
          (q = .unknownOpcode ∧ id = s.hw.procId ∧ u.dev? id = some d ∧ c = s.hw.invalidCode ∧ k = .compulsory)) ∧
        u.occur k id d c a x = .ok (.stopped, w) ∧ t.devs = w.devs ∧ t.mem = u.mem ∧
        t.core = if (d.flags c).getLsbD 9 then { s.core with pc := d.emvr } else s.core) ∧
    ∀ (p q : CoreProg) (u : State) (j : Instr), Executes s i p → Underway s p q u → nextTransaction q = some j →
      (∀ t, exec j u = .next t → t.answer = .stopped → exec i s = .next t) ∧
      ∀ r, exec j u = .refused r → exec i s = .refused r

end Statements
end

