-- ==== Sys2Proof/Laws/State.lean ====
section
/-! SUPPORT. What each named update of the state does to each field, and what the device lookups read after it. -/

namespace Sys2Proof.Machine

@[simp] theorem State.withAnswer_hw (s : State) (a : Answer) : (s.withAnswer a).hw = s.hw := rfl
@[simp] theorem State.withAnswer_devs (s : State) (a : Answer) : (s.withAnswer a).devs = s.devs := rfl
@[simp] theorem State.withAnswer_core (s : State) (a : Answer) : (s.withAnswer a).core = s.core := rfl
@[simp] theorem State.withAnswer_poc (s : State) (a : Answer) : (s.withAnswer a).poc = s.poc := rfl
@[simp] theorem State.withAnswer_bootMap (s : State) (a : Answer) : (s.withAnswer a).bootMap = s.bootMap := rfl
@[simp] theorem State.withAnswer_busLast (s : State) (a : Answer) : (s.withAnswer a).busLast = s.busLast := rfl
@[simp] theorem State.withAnswer_mem (s : State) (a : Answer) : (s.withAnswer a).mem = s.mem := rfl
@[simp] theorem State.withAnswer_pending (s : State) (a : Answer) : (s.withAnswer a).pending = s.pending := rfl
@[simp] theorem State.withAnswer_answer (s : State) (a : Answer) : (s.withAnswer a).answer = a := rfl
@[simp] theorem State.withAnswer_draws (s : State) (a : Answer) : (s.withAnswer a).draws = s.draws := rfl

@[simp] theorem State.withBus_hw (s : State) (b : Byte) : (s.withBus b).hw = s.hw := rfl
@[simp] theorem State.withBus_devs (s : State) (b : Byte) : (s.withBus b).devs = s.devs := rfl
@[simp] theorem State.withBus_core (s : State) (b : Byte) : (s.withBus b).core = s.core := rfl
@[simp] theorem State.withBus_poc (s : State) (b : Byte) : (s.withBus b).poc = s.poc := rfl
@[simp] theorem State.withBus_bootMap (s : State) (b : Byte) : (s.withBus b).bootMap = s.bootMap := rfl
@[simp] theorem State.withBus_busLast (s : State) (b : Byte) : (s.withBus b).busLast = b := rfl
@[simp] theorem State.withBus_mem (s : State) (b : Byte) : (s.withBus b).mem = s.mem := rfl
@[simp] theorem State.withBus_pending (s : State) (b : Byte) : (s.withBus b).pending = s.pending := rfl
@[simp] theorem State.withBus_answer (s : State) (b : Byte) : (s.withBus b).answer = s.answer := rfl
@[simp] theorem State.withBus_draws (s : State) (b : Byte) : (s.withBus b).draws = s.draws := rfl

@[simp] theorem State.withMem_hw (s : State) (m : Memory) : (s.withMem m).hw = s.hw := rfl
@[simp] theorem State.withMem_devs (s : State) (m : Memory) : (s.withMem m).devs = s.devs := rfl
@[simp] theorem State.withMem_core (s : State) (m : Memory) : (s.withMem m).core = s.core := rfl
@[simp] theorem State.withMem_poc (s : State) (m : Memory) : (s.withMem m).poc = s.poc := rfl
@[simp] theorem State.withMem_bootMap (s : State) (m : Memory) : (s.withMem m).bootMap = s.bootMap := rfl
@[simp] theorem State.withMem_busLast (s : State) (m : Memory) : (s.withMem m).busLast = s.busLast := rfl
@[simp] theorem State.withMem_mem (s : State) (m : Memory) : (s.withMem m).mem = m := rfl
@[simp] theorem State.withMem_pending (s : State) (m : Memory) : (s.withMem m).pending = s.pending := rfl
@[simp] theorem State.withMem_answer (s : State) (m : Memory) : (s.withMem m).answer = s.answer := rfl
@[simp] theorem State.withMem_draws (s : State) (m : Memory) : (s.withMem m).draws = s.draws := rfl

@[simp] theorem State.withCore_hw (s : State) (c : Core) : (s.withCore c).hw = s.hw := rfl
@[simp] theorem State.withCore_devs (s : State) (c : Core) : (s.withCore c).devs = s.devs := rfl
@[simp] theorem State.withCore_core (s : State) (c : Core) : (s.withCore c).core = c := rfl
@[simp] theorem State.withCore_poc (s : State) (c : Core) : (s.withCore c).poc = s.poc := rfl
@[simp] theorem State.withCore_bootMap (s : State) (c : Core) : (s.withCore c).bootMap = s.bootMap := rfl
@[simp] theorem State.withCore_busLast (s : State) (c : Core) : (s.withCore c).busLast = s.busLast := rfl
@[simp] theorem State.withCore_mem (s : State) (c : Core) : (s.withCore c).mem = s.mem := rfl
@[simp] theorem State.withCore_pending (s : State) (c : Core) : (s.withCore c).pending = s.pending := rfl
@[simp] theorem State.withCore_answer (s : State) (c : Core) : (s.withCore c).answer = s.answer := rfl
@[simp] theorem State.withCore_draws (s : State) (c : Core) : (s.withCore c).draws = s.draws := rfl

@[simp] theorem State.drawn_hw (s : State) (n : Nat) : (s.drawn n).hw = s.hw := rfl
@[simp] theorem State.drawn_devs (s : State) (n : Nat) : (s.drawn n).devs = s.devs := rfl
@[simp] theorem State.drawn_core (s : State) (n : Nat) : (s.drawn n).core = s.core := rfl
@[simp] theorem State.drawn_poc (s : State) (n : Nat) : (s.drawn n).poc = s.poc := rfl
@[simp] theorem State.drawn_bootMap (s : State) (n : Nat) : (s.drawn n).bootMap = s.bootMap := rfl
@[simp] theorem State.drawn_busLast (s : State) (n : Nat) : (s.drawn n).busLast = s.busLast := rfl
@[simp] theorem State.drawn_mem (s : State) (n : Nat) : (s.drawn n).mem = s.mem := rfl
@[simp] theorem State.drawn_pending (s : State) (n : Nat) : (s.drawn n).pending = s.pending := rfl
@[simp] theorem State.drawn_answer (s : State) (n : Nat) : (s.drawn n).answer = s.answer := rfl
@[simp] theorem State.drawn_draws (s : State) (n : Nat) : (s.drawn n).draws = s.draws + n := rfl

@[simp] theorem State.withPending_hw (s : State) (bs : List Byte) : (s.withPending bs).hw = s.hw := rfl
@[simp] theorem State.withPending_devs (s : State) (bs : List Byte) : (s.withPending bs).devs = s.devs := rfl
@[simp] theorem State.withPending_core (s : State) (bs : List Byte) : (s.withPending bs).core = s.core := rfl
@[simp] theorem State.withPending_poc (s : State) (bs : List Byte) : (s.withPending bs).poc = s.poc := rfl
@[simp] theorem State.withPending_bootMap (s : State) (bs : List Byte) : (s.withPending bs).bootMap = s.bootMap := rfl
@[simp] theorem State.withPending_busLast (s : State) (bs : List Byte) : (s.withPending bs).busLast = s.busLast := rfl
@[simp] theorem State.withPending_mem (s : State) (bs : List Byte) : (s.withPending bs).mem = s.mem := rfl
@[simp] theorem State.withPending_pending (s : State) (bs : List Byte) : (s.withPending bs).pending = bs := rfl
@[simp] theorem State.withPending_answer (s : State) (bs : List Byte) : (s.withPending bs).answer = s.answer := rfl
@[simp] theorem State.withPending_draws (s : State) (bs : List Byte) : (s.withPending bs).draws = s.draws := rfl

@[simp] theorem State.withPc_hw (s : State) (pc : Word) : (s.withPc pc).hw = s.hw := rfl
@[simp] theorem State.withPc_devs (s : State) (pc : Word) : (s.withPc pc).devs = s.devs := rfl
@[simp] theorem State.withPc_core (s : State) (pc : Word) : (s.withPc pc).core = { s.core with pc := pc } := rfl
@[simp] theorem State.withPc_poc (s : State) (pc : Word) : (s.withPc pc).poc = s.poc := rfl
@[simp] theorem State.withPc_bootMap (s : State) (pc : Word) : (s.withPc pc).bootMap = s.bootMap := rfl
@[simp] theorem State.withPc_busLast (s : State) (pc : Word) : (s.withPc pc).busLast = s.busLast := rfl
@[simp] theorem State.withPc_mem (s : State) (pc : Word) : (s.withPc pc).mem = s.mem := rfl
@[simp] theorem State.withPc_pending (s : State) (pc : Word) : (s.withPc pc).pending = s.pending := rfl
@[simp] theorem State.withPc_answer (s : State) (pc : Word) : (s.withPc pc).answer = s.answer := rfl
@[simp] theorem State.withPc_draws (s : State) (pc : Word) : (s.withPc pc).draws = s.draws := rfl

@[simp] theorem State.setDev_hw (s : State) (id : DevId) (d : Device) : (s.setDev id d).hw = s.hw := rfl
@[simp] theorem State.setDev_devs (s : State) (id : DevId) (d : Device) : (s.setDev id d).devs = s.devs.set id.toNat (some d) := rfl
@[simp] theorem State.setDev_core (s : State) (id : DevId) (d : Device) : (s.setDev id d).core = s.core := rfl
@[simp] theorem State.setDev_poc (s : State) (id : DevId) (d : Device) : (s.setDev id d).poc = s.poc := rfl
@[simp] theorem State.setDev_bootMap (s : State) (id : DevId) (d : Device) : (s.setDev id d).bootMap = s.bootMap := rfl
@[simp] theorem State.setDev_busLast (s : State) (id : DevId) (d : Device) : (s.setDev id d).busLast = s.busLast := rfl
@[simp] theorem State.setDev_mem (s : State) (id : DevId) (d : Device) : (s.setDev id d).mem = s.mem := rfl
@[simp] theorem State.setDev_pending (s : State) (id : DevId) (d : Device) : (s.setDev id d).pending = s.pending := rfl
@[simp] theorem State.setDev_answer (s : State) (id : DevId) (d : Device) : (s.setDev id d).answer = s.answer := rfl
@[simp] theorem State.setDev_draws (s : State) (id : DevId) (d : Device) : (s.setDev id d).draws = s.draws := rfl

@[simp] theorem State.allDevs_hw (s : State) (f : Device → Device) : (s.allDevs f).hw = s.hw := rfl
@[simp] theorem State.allDevs_devs (s : State) (f : Device → Device) : (s.allDevs f).devs = s.devs.map (Option.map f) := rfl
@[simp] theorem State.allDevs_core (s : State) (f : Device → Device) : (s.allDevs f).core = s.core := rfl
@[simp] theorem State.allDevs_poc (s : State) (f : Device → Device) : (s.allDevs f).poc = s.poc := rfl
@[simp] theorem State.allDevs_bootMap (s : State) (f : Device → Device) : (s.allDevs f).bootMap = s.bootMap := rfl
@[simp] theorem State.allDevs_busLast (s : State) (f : Device → Device) : (s.allDevs f).busLast = s.busLast := rfl
@[simp] theorem State.allDevs_mem (s : State) (f : Device → Device) : (s.allDevs f).mem = s.mem := rfl
@[simp] theorem State.allDevs_pending (s : State) (f : Device → Device) : (s.allDevs f).pending = s.pending := rfl
@[simp] theorem State.allDevs_answer (s : State) (f : Device → Device) : (s.allDevs f).answer = s.answer := rfl
@[simp] theorem State.allDevs_draws (s : State) (f : Device → Device) : (s.allDevs f).draws = s.draws := rfl

@[simp] theorem State.suspendAll_hw (s : State) : s.suspendAll.hw = s.hw := rfl
@[simp] theorem State.suspendAll_devs (s : State) : s.suspendAll.devs = s.devs.map (Option.map fun e => { e with susp := true }) := rfl
@[simp] theorem State.suspendAll_core (s : State) : s.suspendAll.core = s.core := rfl
@[simp] theorem State.suspendAll_poc (s : State) : s.suspendAll.poc = s.poc := rfl
@[simp] theorem State.suspendAll_bootMap (s : State) : s.suspendAll.bootMap = s.bootMap := rfl
@[simp] theorem State.suspendAll_busLast (s : State) : s.suspendAll.busLast = s.busLast := rfl
@[simp] theorem State.suspendAll_mem (s : State) : s.suspendAll.mem = s.mem := rfl
@[simp] theorem State.suspendAll_pending (s : State) : s.suspendAll.pending = s.pending := rfl
@[simp] theorem State.suspendAll_answer (s : State) : s.suspendAll.answer = s.answer := rfl
@[simp] theorem State.suspendAll_draws (s : State) : s.suspendAll.draws = s.draws := rfl

@[simp] theorem State.shutdownAll_hw (s : State) : s.shutdownAll.hw = s.hw := rfl
@[simp] theorem State.shutdownAll_devs (s : State) : s.shutdownAll.devs = s.devs.map (Option.map fun e => { e with shut := true }) := rfl
@[simp] theorem State.shutdownAll_core (s : State) : s.shutdownAll.core = s.core := rfl
@[simp] theorem State.shutdownAll_poc (s : State) : s.shutdownAll.poc = s.poc := rfl
@[simp] theorem State.shutdownAll_bootMap (s : State) : s.shutdownAll.bootMap = s.bootMap := rfl
@[simp] theorem State.shutdownAll_busLast (s : State) : s.shutdownAll.busLast = s.busLast := rfl
@[simp] theorem State.shutdownAll_mem (s : State) : s.shutdownAll.mem = s.mem := rfl
@[simp] theorem State.shutdownAll_pending (s : State) : s.shutdownAll.pending = s.pending := rfl
@[simp] theorem State.shutdownAll_answer (s : State) : s.shutdownAll.answer = s.answer := rfl
@[simp] theorem State.shutdownAll_draws (s : State) : s.shutdownAll.draws = s.draws := rfl

@[simp] theorem State.clearSilentFlags_hw (s : State) : s.clearSilentFlags.hw = s.hw := rfl
@[simp] theorem State.clearSilentFlags_devs (s : State) : s.clearSilentFlags.devs = s.devs.map (Option.map Device.clearSilent) := rfl
@[simp] theorem State.clearSilentFlags_core (s : State) : s.clearSilentFlags.core = s.core := rfl
@[simp] theorem State.clearSilentFlags_poc (s : State) : s.clearSilentFlags.poc = s.poc := rfl
@[simp] theorem State.clearSilentFlags_bootMap (s : State) : s.clearSilentFlags.bootMap = s.bootMap := rfl
@[simp] theorem State.clearSilentFlags_busLast (s : State) : s.clearSilentFlags.busLast = s.busLast := rfl
@[simp] theorem State.clearSilentFlags_mem (s : State) : s.clearSilentFlags.mem = s.mem := rfl
@[simp] theorem State.clearSilentFlags_pending (s : State) : s.clearSilentFlags.pending = s.pending := rfl
@[simp] theorem State.clearSilentFlags_answer (s : State) : s.clearSilentFlags.answer = s.answer := rfl
@[simp] theorem State.clearSilentFlags_draws (s : State) : s.clearSilentFlags.draws = s.draws := rfl

@[simp] theorem State.resumeAll_hw (s : State) : s.resumeAll.hw = s.hw := rfl
@[simp] theorem State.resumeAll_devs (s : State) : s.resumeAll.devs = s.devs.map (Option.map fun d => { d with susp := false }) := rfl
@[simp] theorem State.resumeAll_core (s : State) : s.resumeAll.core = s.core := rfl
@[simp] theorem State.resumeAll_poc (s : State) : s.resumeAll.poc = s.poc := rfl
@[simp] theorem State.resumeAll_bootMap (s : State) : s.resumeAll.bootMap = s.bootMap := rfl
@[simp] theorem State.resumeAll_busLast (s : State) : s.resumeAll.busLast = s.busLast := rfl
@[simp] theorem State.resumeAll_mem (s : State) : s.resumeAll.mem = s.mem := rfl
@[simp] theorem State.resumeAll_pending (s : State) : s.resumeAll.pending = s.pending := rfl
@[simp] theorem State.resumeAll_answer (s : State) : s.resumeAll.answer = s.answer := rfl
@[simp] theorem State.resumeAll_draws (s : State) : s.resumeAll.draws = s.draws := rfl

@[simp] theorem State.enterMonitor_hw (s : State) (v : Word) : (s.enterMonitor v).hw = s.hw := rfl
@[simp] theorem State.enterMonitor_devs (s : State) (v : Word) : (s.enterMonitor v).devs = s.devs.map (Option.map fun e => { e with mode := .monitor }) := rfl
@[simp] theorem State.enterMonitor_core (s : State) (v : Word) : (s.enterMonitor v).core = { s.core with pc := v } := rfl
@[simp] theorem State.enterMonitor_poc (s : State) (v : Word) : (s.enterMonitor v).poc = s.poc := rfl
@[simp] theorem State.enterMonitor_bootMap (s : State) (v : Word) : (s.enterMonitor v).bootMap = s.bootMap := rfl
@[simp] theorem State.enterMonitor_busLast (s : State) (v : Word) : (s.enterMonitor v).busLast = s.busLast := rfl
@[simp] theorem State.enterMonitor_mem (s : State) (v : Word) : (s.enterMonitor v).mem = s.mem := rfl
@[simp] theorem State.enterMonitor_pending (s : State) (v : Word) : (s.enterMonitor v).pending = s.pending := rfl
@[simp] theorem State.enterMonitor_answer (s : State) (v : Word) : (s.enterMonitor v).answer = s.answer := rfl
@[simp] theorem State.enterMonitor_draws (s : State) (v : Word) : (s.enterMonitor v).draws = s.draws := rfl

@[simp] theorem Device.setFlags_spec (d : Device) (c : Byte) (f : Word) : (d.setFlags c f).spec = d.spec := rfl
@[simp] theorem Device.clearSilent_spec (d : Device) : d.clearSilent.spec = d.spec := rfl
@[simp] theorem Device.recordTrigger_spec (hw : Hardware) (k : EventKind) (d : Device) (c : Byte) (a x : Word) :
    (d.recordTrigger hw k c a x).spec = d.spec := rfl
@[simp] theorem Device.setFlags_post (d : Device) (c : Byte) (f : Word) : (d.setFlags c f).post = d.post := rfl
@[simp] theorem Device.clearSilent_post (d : Device) : d.clearSilent.post = d.post := rfl
@[simp] theorem Device.recordTrigger_post (hw : Hardware) (k : EventKind) (d : Device) (c : Byte) (a x : Word) :
    (d.recordTrigger hw k c a x).post = d.post := rfl
@[simp] theorem Device.setFlags_mode (d : Device) (c : Byte) (f : Word) : (d.setFlags c f).mode = d.mode := rfl
@[simp] theorem Device.clearSilent_mode (d : Device) : d.clearSilent.mode = d.mode := rfl
@[simp] theorem Device.recordTrigger_mode (hw : Hardware) (k : EventKind) (d : Device) (c : Byte) (a x : Word) :
    (d.recordTrigger hw k c a x).mode = d.mode := rfl
@[simp] theorem Device.setFlags_susp (d : Device) (c : Byte) (f : Word) : (d.setFlags c f).susp = d.susp := rfl
@[simp] theorem Device.clearSilent_susp (d : Device) : d.clearSilent.susp = d.susp := rfl
@[simp] theorem Device.recordTrigger_susp (hw : Hardware) (k : EventKind) (d : Device) (c : Byte) (a x : Word) :
    (d.recordTrigger hw k c a x).susp = d.susp := rfl
@[simp] theorem Device.setFlags_shut (d : Device) (c : Byte) (f : Word) : (d.setFlags c f).shut = d.shut := rfl
@[simp] theorem Device.clearSilent_shut (d : Device) : d.clearSilent.shut = d.shut := rfl
@[simp] theorem Device.recordTrigger_shut (hw : Hardware) (k : EventKind) (d : Device) (c : Byte) (a x : Word) :
    (d.recordTrigger hw k c a x).shut = d.shut := rfl
@[simp] theorem Device.setFlags_enab (d : Device) (c : Byte) (f : Word) : (d.setFlags c f).enab = d.enab := rfl
@[simp] theorem Device.clearSilent_enab (d : Device) : d.clearSilent.enab = d.enab := rfl
@[simp] theorem Device.recordTrigger_enab (hw : Hardware) (k : EventKind) (d : Device) (c : Byte) (a x : Word) :
    (d.recordTrigger hw k c a x).enab = d.enab := rfl
@[simp] theorem Device.setFlags_ehcr (d : Device) (c : Byte) (f : Word) : (d.setFlags c f).ehcr = d.ehcr := rfl
@[simp] theorem Device.clearSilent_ehcr (d : Device) : d.clearSilent.ehcr = d.ehcr := rfl
@[simp] theorem Device.recordTrigger_ehcr (hw : Hardware) (k : EventKind) (d : Device) (c : Byte) (a x : Word) :
    (d.recordTrigger hw k c a x).ehcr = d.ehcr := rfl
@[simp] theorem Device.setFlags_emvr (d : Device) (c : Byte) (f : Word) : (d.setFlags c f).emvr = d.emvr := rfl
@[simp] theorem Device.clearSilent_emvr (d : Device) : d.clearSilent.emvr = d.emvr := rfl
@[simp] theorem Device.recordTrigger_emvr (hw : Hardware) (k : EventKind) (d : Device) (c : Byte) (a x : Word) :
    (d.recordTrigger hw k c a x).emvr = d.emvr := rfl
@[simp] theorem Device.setFlags_decr (d : Device) (c : Byte) (f : Word) : (d.setFlags c f).decr = d.decr := rfl
@[simp] theorem Device.clearSilent_decr (d : Device) : d.clearSilent.decr = d.decr := rfl
@[simp] theorem Device.setFlags_dear (d : Device) (c : Byte) (f : Word) : (d.setFlags c f).dear = d.dear := rfl
@[simp] theorem Device.clearSilent_dear (d : Device) : d.clearSilent.dear = d.dear := rfl
@[simp] theorem Device.setFlags_dedr (d : Device) (c : Byte) (f : Word) : (d.setFlags c f).dedr = d.dedr := rfl
@[simp] theorem Device.clearSilent_dedr (d : Device) : d.clearSilent.dedr = d.dedr := rfl
@[simp] theorem Device.setFlags_defr (d : Device) (c : Byte) (f : Word) : (d.setFlags c f).defr = d.defr := rfl
@[simp] theorem Device.clearSilent_defr (d : Device) : d.clearSilent.defr = d.defr := rfl
@[simp] theorem Device.setFlags_devAxr (d : Device) (c : Byte) (f : Word) : (d.setFlags c f).devAxr = d.devAxr := rfl
@[simp] theorem Device.clearSilent_devAxr (d : Device) : d.clearSilent.devAxr = d.devAxr := rfl
@[simp] theorem Device.recordTrigger_devAxr (hw : Hardware) (k : EventKind) (d : Device) (c : Byte) (a x : Word) :
    (d.recordTrigger hw k c a x).devAxr = d.devAxr := rfl

@[simp] theorem Device.recordTrigger_decr (hw : Hardware) (k : EventKind) (d : Device) (c : Byte) (a x : Word) :
    (d.recordTrigger hw k c a x).decr = c := rfl
@[simp] theorem Device.recordTrigger_dear (hw : Hardware) (k : EventKind) (d : Device) (c : Byte) (a x : Word) :
    (d.recordTrigger hw k c a x).dear = a := rfl
@[simp] theorem Device.recordTrigger_dedr (hw : Hardware) (k : EventKind) (d : Device) (c : Byte) (a x : Word) :
    (d.recordTrigger hw k c a x).dedr = x := rfl

/-! ## Looking a device up after an update -/

@[simp] theorem State.dev?_withAnswer (s : State) (a : Answer) (id : DevId) : (s.withAnswer a).dev? id = s.dev? id := rfl
@[simp] theorem State.dev?_withBus (s : State) (b : Byte) (id : DevId) : (s.withBus b).dev? id = s.dev? id := rfl
@[simp] theorem State.dev?_withMem (s : State) (m : Memory) (id : DevId) : (s.withMem m).dev? id = s.dev? id := rfl
@[simp] theorem State.dev?_withCore (s : State) (c : Core) (id : DevId) : (s.withCore c).dev? id = s.dev? id := rfl
@[simp] theorem State.dev?_drawn (s : State) (n : Nat) (id : DevId) : (s.drawn n).dev? id = s.dev? id := rfl
@[simp] theorem State.dev?_withPending (s : State) (bs : List Byte) (id : DevId) : (s.withPending bs).dev? id = s.dev? id := rfl
@[simp] theorem State.dev?_withPc (s : State) (pc : Word) (id : DevId) : (s.withPc pc).dev? id = s.dev? id := rfl

@[simp] theorem State.dev?_allDevs (s : State) (f : Device → Device) (id : DevId) :
    (s.allDevs f).dev? id = (s.dev? id).map f := by
  simp only [State.dev?, State.allDevs_devs, List.getElem?_map]
  cases s.devs[id.toNat]? with
  | none => rfl
  | some o => cases o <;> rfl

/-- A Device ID some device holds is a slot of the list. -/
theorem State.slot_lt {s : State} {id : DevId} {d : Device} (h : s.dev? id = some d) : id.toNat < s.devs.length := by
  unfold State.dev? at h
  by_contra hn
  rw [List.getElem?_eq_none (Nat.le_of_not_lt hn)] at h
  cases h

theorem State.dev?_setDev_same {s : State} {id : DevId} {d e : Device} (h : s.dev? id = some e) :
    (s.setDev id d).dev? id = some d := by
  simp [State.dev?, State.slot_lt h]

theorem State.dev?_setDev_other (s : State) {id id' : DevId} (d : Device) (h : id' ≠ id) :
    (s.setDev id d).dev? id' = s.dev? id' := by
  have hn : ¬ id.toNat = id'.toNat := fun e => h (BitVec.eq_of_toNat_eq e.symm)
  simp [State.dev?, hn]

/-- Putting a device back where it stands changes nothing. -/
theorem State.setDev_self {s : State} {id : DevId} {d : Device} (h : s.dev? id = some d) : s.setDev id d = s := by
  have hl : s.devs[id.toNat]? = some (some d) := by
    unfold State.dev? at h
    cases ho : s.devs[id.toNat]? with
    | none => rw [ho] at h; cases h
    | some o => rw [ho] at h; simp only [Option.join_some] at h; rw [h]
  obtain ⟨hlt, he⟩ := List.getElem?_eq_some_iff.1 hl
  show { s with devs := _ } = s
  rw [← he, List.set_getElem_self]

theorem State.answering_dev {s : State} {id : DevId} {d : Device} (h : s.answering id = some d) :
    s.dev? id = some d ∧ d.responds = true := by
  unfold State.answering at h
  split at h
  · next e he =>
    split at h
    · next hr => cases h; exact ⟨he, hr⟩
    · cases h
  · cases h

theorem State.answering_of {s : State} {id : DevId} {d : Device} (h : s.dev? id = some d) (hr : d.responds = true) :
    s.answering id = some d := by
  simp [State.answering, h, hr]

/-- Every device satisfies `p`, slot by slot. -/
theorem State.everyDev_iff (s : State) (p : Device → Bool) :
    s.everyDev p = true ↔ ∀ d, some d ∈ s.devs → p d = true := by
  simp only [State.everyDev, List.all_eq_true]
  exact ⟨fun h d hd => by simpa using h (some d) hd, fun h o ho => by
    cases o with
    | none => rfl
    | some d => simpa using h d ho⟩

theorem State.someDev_iff (s : State) (p : Device → Bool) :
    s.someDev p = true ↔ ∃ d, some d ∈ s.devs ∧ p d = true := by
  simp only [State.someDev, List.any_eq_true]
  constructor
  · rintro ⟨o, ho, hp⟩
    cases o with
    | none => simp at hp
    | some d => exact ⟨d, ho, by simpa using hp⟩
  · rintro ⟨d, hd, hp⟩
    exact ⟨some d, hd, by simpa using hp⟩

theorem State.mem_of_dev? {s : State} {id : DevId} {d : Device} (h : s.dev? id = some d) : some d ∈ s.devs := by
  unfold State.dev? at h
  cases ho : s.devs[id.toNat]? with
  | none => rw [ho] at h; cases h
  | some o =>
    rw [ho] at h
    simp only [Option.join_some] at h
    rw [h] at ho
    exact List.mem_of_getElem? ho

/-- With at most sixteen slots every device has a Device ID. -/
theorem State.dev?_of_mem {s : State} {d : Device} (hl : s.devs.length ≤ 16) (h : some d ∈ s.devs) :
    ∃ id, s.dev? id = some d := by
  obtain ⟨n, hn, he⟩ := List.getElem_of_mem h
  refine ⟨BitVec.ofNat 4 n, ?_⟩
  have : (BitVec.ofNat 4 n).toNat = n := by simp; omega
  simp [State.dev?, this, List.getElem?_eq_getElem hn, he]

/-! ## Bytes and words -/

@[simp] theorem lowByte_wordOf (hi lo : Byte) : lowByte (wordOf hi lo) = lo := by
  ext i h
  have h16 : i < 16 := by omega
  simp [lowByte, wordOf, h, h16]

@[simp] theorem highByte_wordOf (hi lo : Byte) : highByte (wordOf hi lo) = hi := by
  ext i h
  have h16 : 8 + i < 16 := by omega
  simp [highByte, wordOf, BitVec.getLsbD_eq_getElem h, h16]

theorem wordOf_eq (hi lo : Byte) : wordOf hi lo = hi ++ lo := by
  apply BitVec.eq_of_getLsbD_eq
  intro i h
  rw [BitVec.getLsbD_append]
  by_cases hl : i < 8
  · simp [wordOf, hl, h]
  · simp [wordOf, hl, h, BitVec.getLsbD_of_ge lo i (by omega)]

@[simp] theorem wordOf_bytes (v : Word) : wordOf (highByte v) (lowByte v) = v := by
  ext i h
  simp only [highByte, lowByte, wordOf, BitVec.getElem_or, BitVec.getElem_shiftLeft, BitVec.getElem_setWidth,
    BitVec.getLsbD_extractLsb']
  by_cases hl : i < 8
  · simp [hl, BitVec.getLsbD_eq_getElem h]
  · simp [hl, show 8 + (i - 8) = i by omega, BitVec.getLsbD_eq_getElem h]
    omega

@[simp] theorem highByte_byteAsWord (p : Byte) : highByte (byteAsWord p) = 0#8 := by
  ext i h
  simp [highByte, byteAsWord]

@[simp] theorem lowByte_byteAsWord (p : Byte) : lowByte (byteAsWord p) = p := by
  ext i h
  simp [lowByte, byteAsWord, BitVec.getLsbD_eq_getElem h]
  omega

@[simp] theorem devIdOf_devIdAsByte (d : DevId) : devIdOf (devIdAsByte d) = d := by
  ext i h
  simp [devIdOf, devIdAsByte, BitVec.getLsbD_eq_getElem h]
  omega

end Sys2Proof.Machine
end

