-- ==== Sys2Proof/Laws/Events.lean ====
section
/-! SUPPORT. What the shared operations of events and transactions can do: one lemma per operation that lists its
outcomes. -/

namespace Sys2Proof.Machine

theorem Device.protects_nil (d : Device) : d.protects [] = false := rfl

theorem Device.protects_cons (d : Device) (c : Byte) (cs : List Byte) :
    d.protects (c :: cs) = (eventKind d.spec.kinds c == some .protection || d.protects cs) := rfl

/-- The codes in another order protect the same (R153). -/
theorem Device.protects_perm {d : Device} {cs cs' : List Byte} (h : cs.Perm cs') : d.protects cs = d.protects cs' := h.any_eq

/-- How handling a triggered event can end (60_exceptions.md R145 to R148). -/
theorem State.handle_cases {s t : State} {d : Device} {f : Word} (h : s.handle d f = .ok t) :
    (f.getLsbD 9 = true ∧ s.hw.monitorPresent = true ∧ d.mode = .compatible ∧
      t = if f.getLsbD 8 then (s.enterMonitor d.emvr).suspendAll else s.enterMonitor d.emvr) ∨
    (f.getLsbD 9 = false ∧ f.getLsbD 8 = true ∧ t = s.suspendAll) ∨
    (f.getLsbD 9 = false ∧ f.getLsbD 8 = false ∧ f.getLsbD 10 = true ∧ t = s.shutdownAll) ∨
    (f.getLsbD 9 = false ∧ f.getLsbD 8 = false ∧ f.getLsbD 10 = false ∧ t = s) := by
  unfold State.handle at h
  split at h
  · next h9 =>
    split at h
    · next hp =>
      split at h
      · cases h
      · next hm => exact .inl ⟨h9, hp, hm, (Except.ok.inj h).symm⟩
    · cases h
  · next h9 =>
    have h9 : f.getLsbD 9 = false := by simpa using h9
    split at h
    · next h8 => exact .inr (.inl ⟨h9, h8, (Except.ok.inj h).symm⟩)
    · next h8 =>
      have h8 : f.getLsbD 8 = false := by simpa using h8
      split at h
      · next h10 => exact .inr (.inr (.inl ⟨h9, h8, h10, (Except.ok.inj h).symm⟩))
      · next h10 => exact .inr (.inr (.inr ⟨h9, h8, by simpa using h10, (Except.ok.inj h).symm⟩))

/-- How `Occur` can end when it does not refuse (R142). -/
theorem State.occur_cases {s t : State} {k : EventKind} {id : DevId} {d : Device} {c : Byte} {a x : Word}
    {r : OccurResult} (h : s.occur k id d c a x = .ok (r, t)) :
    (r = .silenced ∧ t = s ∧ silenced k d.mode (d.flags c) = true) ∨
    (r = .ignored ∧ t = s ∧ silenced k d.mode (d.flags c) = false ∧ hasMechanism (d.flags c) = false ∧ k ≠ .compulsory) ∨
    (r = .stopped ∧ silenced k d.mode (d.flags c) = false ∧ hasMechanism (d.flags c) = true ∧
      (s.setDev id (d.recordTrigger s.hw k c a x)).handle d (d.flags c) = .ok t) := by
  unfold State.occur at h
  split at h
  · next hs =>
    obtain ⟨rfl, rfl⟩ := Prod.mk.inj (Except.ok.inj h)
    exact .inl ⟨rfl, rfl, hs⟩
  · next hs =>
    have hs : silenced k d.mode (d.flags c) = false := by simpa using hs
    split at h
    · next hm =>
      split at h
      · next s' hh =>
        obtain ⟨rfl, rfl⟩ := Prod.mk.inj (Except.ok.inj h)
        exact .inr (.inr ⟨rfl, hs, hm, hh⟩)
      · cases h
    · next hm =>
      have hm : hasMechanism (d.flags c) = false := by simpa using hm
      split at h
      · cases h
      all_goals
        obtain ⟨rfl, rfl⟩ := Prod.mk.inj (Except.ok.inj h)
        exact .inr (.inl ⟨rfl, rfl, hs, hm, by simp⟩)

/-- How the processing of raised codes can end (R151, R153): all passed and nothing changed, or the first that triggered
stopped it. -/
theorem State.raiseCodes_cases {s t : State} {id : DevId} {d : Device} {tx : Tx} {cs : List Byte} {p : Bool} {v : Verdict}
    (h : s.raiseCodes id d tx cs p = .ok (v, t)) :
    (t = s ∧ (∀ c ∈ cs, d.passes c = true) ∧ v = if p || d.protects cs then .prohibited else .proceed) ∨
    (v = .stopped ∧ ∃ c ∈ cs, ∃ k s', eventKind d.spec.kinds c = some k ∧
      s.occur k id d c (tx.eventAddr s.draws) (tx.eventData (s.draws + 1)) = .ok (.stopped, s') ∧ t = s'.drawn 2) := by
  induction cs generalizing p with
  | nil =>
    simp only [State.raiseCodes] at h
    obtain ⟨rfl, rfl⟩ := Prod.mk.inj (Except.ok.inj h)
    exact .inl ⟨rfl, by simp, by simp [Device.protects]⟩
  | cons c cs ih =>
    have key : ∀ q : Bool, q = d.protects [c] → d.passes c = true → s.raiseCodes id d tx cs (p || q) = .ok (v, t) →
        (t = s ∧ (∀ c' ∈ c :: cs, d.passes c' = true) ∧
          v = if p || d.protects (c :: cs) then .prohibited else .proceed) ∨
        (v = .stopped ∧ ∃ c' ∈ c :: cs, ∃ k s', eventKind d.spec.kinds c' = some k ∧
          s.occur k id d c' (tx.eventAddr s.draws) (tx.eventData (s.draws + 1)) = .ok (.stopped, s') ∧
          t = s'.drawn 2) := fun q hq hpass h' => by
      rcases ih h' with ⟨rfl, hp, hv⟩ | ⟨hv, c', hc', rest⟩
      · refine .inl ⟨rfl, ?_, ?_⟩
        · intro c' hc'
          rcases List.mem_cons.1 hc' with rfl | hc'
          · exact hpass
          · exact hp c' hc'
        · rw [hv, hq]
          simp [Device.protects, Bool.or_assoc]
      · exact .inr ⟨hv, c', by simp [hc'], rest⟩
    simp only [State.raiseCodes] at h
    split at h
    · next hk => exact key false (by simp [Device.protects, hk]) (by simp [Device.passes, hk]) (by simpa using h)
    · next k hk =>
      split at h
      · cases h
      · next s' ho =>
        obtain ⟨rfl, rfl⟩ := Prod.mk.inj (Except.ok.inj h)
        exact .inr ⟨rfl, c, by simp, k, s', hk, ho, rfl⟩
      · next s' ho =>
        rcases State.occur_cases ho with ⟨-, -, hs⟩ | ⟨hx, -⟩ | ⟨hx, -⟩
        · exact key _ (by simp [Device.protects, hk]) (by simp [Device.passes, hk, hs]) h
        · cases hx
        · cases hx
      · next s' ho =>
        rcases State.occur_cases ho with ⟨hx, -⟩ | ⟨-, -, hs, hm, hc⟩ | ⟨hx, -⟩
        · cases hx
        · exact key _ (by simp [Device.protects, hk]) (by simp [Device.passes, hk, hm, hc]) h
        · cases hx

/-- Ordering the raised codes neither adds nor drops one (R153). -/
theorem orderCodes_perm (n : Nat) (cs : List Byte) : (orderCodes n cs).Perm cs := by
  induction cs with
  | nil => exact .refl _
  | cons c cs ih =>
    cases cs with
    | nil => exact .refl _
    | cons c' cs =>
      have hlen := ih.length_eq
      simp only [orderCodes]
      refine (List.perm_insertIdx c _ ?_).trans (ih.cons c)
      rw [hlen]
      exact Nat.lt_succ_iff.1 (Nat.mod_lt _ (Nat.succ_pos _))

theorem mem_orderCodes {n : Nat} {cs : List Byte} {c : Byte} : c ∈ orderCodes n cs ↔ c ∈ cs :=
  (orderCodes_perm n cs).mem_iff

/-- How the event processing of a transaction can end when it does not refuse (R141, R151). -/
theorem State.checkEvents_cases {s t : State} {id : DevId} {d : Device} {tx : Tx} {v : Verdict}
    (h : s.checkEvents id d tx = .ok (v, t)) :
    (t = s ∧ (∀ c ∈ d.detects tx, d.passes c = true) ∧
      v = if d.protects (d.detects tx) then .prohibited else .proceed) ∨
    (v = .stopped ∧ ∃ c ∈ d.detects tx, ∃ k s', eventKind d.spec.kinds c = some k ∧
      s.occur k id d c (tx.eventAddr s.draws) (tx.eventData (s.draws + 1)) = .ok (.stopped, s') ∧ t = s'.drawn 2) := by
  rcases State.raiseCodes_cases h with ⟨rfl, hp, hv⟩ | ⟨hv, c, hc, rest⟩
  · refine .inl ⟨rfl, fun c hc => hp c (mem_orderCodes.2 hc), ?_⟩
    rw [hv, Bool.false_or, Device.protects_perm (orderCodes_perm _ _)]
  · exact .inr ⟨hv, c, mem_orderCodes.1 hc, rest⟩

/-- A transaction that raises nothing is carried out (R151). -/
theorem State.checkEvents_none {s : State} {id : DevId} {d : Device} {tx : Tx} (h : d.detects tx = []) :
    s.checkEvents id d tx = .ok (.proceed, s) := by
  simp [State.checkEvents, h, orderCodes, State.raiseCodes]

/-- A transaction whose raised codes are all silenced or ignored changes nothing (R151). -/
theorem State.raiseCodes_passed (s : State) (id : DevId) (d : Device) (tx : Tx) (cs : List Byte) (p : Bool)
    (h : ∀ c ∈ cs, d.passes c = true) :
    s.raiseCodes id d tx cs p =
      .ok (if p || d.protects cs then .prohibited else .proceed, s) := by
  induction cs generalizing p with
  | nil => simp [State.raiseCodes, Device.protects_nil]
  | cons c cs ih =>
    have hc := h c (by simp)
    have hcs := fun q => ih q fun c' hc' => h c' (by simp [hc'])
    simp only [State.raiseCodes]
    split
    · next hk => rw [hcs]; simp [Device.protects_cons, hk]
    · next k hk =>
      simp only [Device.passes, hk] at hc
      unfold State.occur
      by_cases hs : silenced k d.mode (d.flags c) = true
      · simp only [hs, if_true, hcs, Device.protects_cons, hk, Bool.or_assoc]
        cases k <;> rfl
      · have hm : hasMechanism (d.flags c) = false ∧ k ≠ .compulsory := by simpa [hs] using hc
        cases k with
        | compulsory => exact absurd rfl hm.2
        | protection => simp only [hs, hm.1, hcs, Device.protects_cons, hk, Bool.or_assoc]; rfl
        | breakpoint => simp only [hs, hm.1, hcs, Device.protects_cons, hk, Bool.or_assoc]; rfl

/-- The event processing of a transaction whose raised codes are all silenced or ignored (R151). -/
theorem State.checkEvents_passed {s : State} {id : DevId} {d : Device} {tx : Tx}
    (h : ∀ c ∈ d.detects tx, d.passes c = true) :
    s.checkEvents id d tx =
      .ok (if d.protects (d.detects tx) then .prohibited else .proceed, s) := by
  unfold State.checkEvents
  rw [State.raiseCodes_passed _ _ _ _ _ _ fun c hc => h c (mem_orderCodes.1 hc), Bool.false_or,
    Device.protects_perm (orderCodes_perm _ _)]

/-- An occurrence at a code that does not pass triggers or refuses (R142, R149). -/
theorem State.occur_blocked {s : State} {k : EventKind} {id : DevId} {d : Device} {c : Byte} (a x : Word)
    (hk : eventKind d.spec.kinds c = some k) (h : d.passes c = false) :
    (∃ t, s.occur k id d c a x = .ok (.stopped, t)) ∨ ∃ r, s.occur k id d c a x = .error r := by
  simp only [Device.passes, hk, Bool.or_eq_false_iff] at h
  unfold State.occur
  rw [if_neg (by simp [h.1])]
  split
  · split
    · exact .inl ⟨_, rfl⟩
    · exact .inr ⟨_, rfl⟩
  · next hm =>
    have hk : k = .compulsory := by simpa [hm] using h.2
    subst hk
    exact .inr ⟨_, rfl⟩

/-- A transaction some of whose raised codes does not pass ends as the event of such a code does (R151, R153). -/
theorem State.raiseCodes_blocked (s : State) (id : DevId) (d : Device) (tx : Tx) (cs : List Byte) (p : Bool)
    (h : cs.all d.passes = false) :
    ∃ c ∈ cs, d.passes c = false ∧ ∃ k, eventKind d.spec.kinds c = some k ∧
      s.raiseCodes id d tx cs p =
        match s.occur k id d c (tx.eventAddr s.draws) (tx.eventData (s.draws + 1)) with
        | .ok (_, s') => .ok (.stopped, s'.drawn 2)
        | .error r => .error r := by
  induction cs generalizing p with
  | nil => simp at h
  | cons c cs ih =>
    by_cases hp : d.passes c = true
    · obtain ⟨q, hq⟩ : ∃ q, s.raiseCodes id d tx (c :: cs) p = s.raiseCodes id d tx cs q := by
        simp only [State.raiseCodes]
        split
        · exact ⟨_, rfl⟩
        · next k hk =>
          split
          · next r ho =>
            simp only [Device.passes, hk, Bool.or_eq_true] at hp
            unfold State.occur at ho
            split at ho
            · cases ho
            · next hs => cases k <;> simp_all
          · next s' ho =>
            rcases State.occur_cases ho with ⟨hx, -⟩ | ⟨hx, -⟩ | ⟨-, hs, hm, -⟩
            · cases hx
            · cases hx
            · simp [Device.passes, hk, hs, hm] at hp
          · exact ⟨_, rfl⟩
          · exact ⟨_, rfl⟩
      obtain ⟨c', hc', rest⟩ := ih q (by simpa [hp] using h)
      exact ⟨c', by simp [hc'], hq ▸ rest⟩
    · have hp : d.passes c = false := by simpa using hp
      obtain ⟨k, hk⟩ : ∃ k, eventKind d.spec.kinds c = some k := by
        cases hk : eventKind d.spec.kinds c with
        | none => simp [Device.passes, hk] at hp
        | some k => exact ⟨k, rfl⟩
      refine ⟨c, by simp, hp, k, hk, ?_⟩
      simp only [State.raiseCodes, hk]
      rcases State.occur_blocked (s := s) (id := id) (tx.eventAddr s.draws) (tx.eventData (s.draws + 1)) hk hp with
        ⟨t, ht⟩ | ⟨r, hr⟩
      · simp only [ht]
      · simp only [hr]

/-- The event processing of a transaction some of whose raised codes does not pass (R141, R151). -/
theorem State.checkEvents_blocked (s : State) (id : DevId) {d : Device} {tx : Tx}
    (h : (d.detects tx).all d.passes = false) :
    ∃ c ∈ d.detects tx, d.passes c = false ∧ ∃ k, eventKind d.spec.kinds c = some k ∧
      s.checkEvents id d tx =
        match s.occur k id d c (tx.eventAddr s.draws) (tx.eventData (s.draws + 1)) with
        | .ok (_, s') => .ok (.stopped, s'.drawn 2)
        | .error r => .error r := by
  obtain ⟨c, hc, rest⟩ := State.raiseCodes_blocked s id d tx (orderCodes s.draws (d.detects tx)) false
    (by rw [(orderCodes_perm _ _).all_eq, h])
  exact ⟨c, mem_orderCodes.1 hc, rest⟩

/-- Handling does not look at the bus latch. -/
theorem State.handle_withBus (s : State) (b : Byte) (d : Device) (f : Word) :
    (s.withBus b).handle d f = (s.handle d f).map fun t => t.withBus b := by
  unfold State.handle
  rw [State.withBus_hw]
  cases f.getLsbD 9 <;> cases f.getLsbD 8 <;> cases f.getLsbD 10 <;> cases s.hw.monitorPresent <;> cases d.mode <;> rfl

/-- Nor does an event. -/
theorem State.occur_withBus (s : State) (b : Byte) (k : EventKind) (id : DevId) (d : Device) (c : Byte) (a x : Word) :
    (s.withBus b).occur k id d c a x = (s.occur k id d c a x).map fun p => (p.1, p.2.withBus b) := by
  have h : ((s.withBus b).setDev id (d.recordTrigger (s.withBus b).hw k c a x)).handle d (d.flags c) =
      ((s.setDev id (d.recordTrigger s.hw k c a x)).handle d (d.flags c)).map fun t => t.withBus b :=
    State.handle_withBus (s.setDev id (d.recordTrigger s.hw k c a x)) b d (d.flags c)
  unfold State.occur
  rw [h]
  cases (s.setDev id (d.recordTrigger s.hw k c a x)).handle d (d.flags c) <;>
    cases silenced k d.mode (d.flags c) <;> cases hasMechanism (d.flags c) <;> cases k <;> rfl

/-- An event that triggers leaves all but the devices and the pc (R146 to R148, R154). -/
theorem State.occur_stopped_frame {s t : State} {k : EventKind} {id : DevId} {d : Device} {c : Byte} {a x : Word}
    (h : s.occur k id d c a x = .ok (.stopped, t)) :
    t.hw = s.hw ∧ t.poc = s.poc ∧ t.bootMap = s.bootMap ∧ t.busLast = s.busLast ∧ t.mem = s.mem ∧ t.pending = s.pending ∧
      t.answer = s.answer ∧ t.draws = s.draws ∧
      t.core = if (d.flags c).getLsbD 9 then { s.core with pc := d.emvr } else s.core := by
  rcases State.occur_cases h with ⟨hx, -⟩ | ⟨hx, -⟩ | ⟨-, -, -, hh⟩
  · cases hx
  · cases hx
  · rcases State.handle_cases hh with ⟨h9, -, -, rfl⟩ | ⟨h9, -, rfl⟩ | ⟨h9, -, -, rfl⟩ | ⟨h9, -, -, rfl⟩
    · rw [h9]
      split <;> exact ⟨rfl, rfl, rfl, rfl, rfl, rfl, rfl, rfl, rfl⟩
    all_goals rw [h9]; exact ⟨rfl, rfl, rfl, rfl, rfl, rfl, rfl, rfl, rfl⟩

/-! ## A transaction with its events -/

/-- Whether a transaction is carried out depends on four fields of the device that answers it. -/
theorem Device.carriesOut_congr {d e : Device} (tx : Tx) (hs : e.spec = d.spec) (hx : e.devAxr = d.devAxr)
    (ht : e.eht = d.eht) (hm : e.mode = d.mode) : e.carriesOut tx = d.carriesOut tx := by
  have hr : Detector.raised e tx = Detector.raised d tx := by
    funext det
    simp only [Detector.raised, show AxrCond.holds e = AxrCond.holds d by funext c; simp only [AxrCond.holds, hx]]
  have hd : e.detects tx = d.detects tx := by simp only [Device.detects, hs, hr]
  have hp : e.passes = d.passes := by funext c; simp only [Device.passes, Device.flags, hs, ht, hm]
  simp only [Device.carriesOut, Device.protects, hd, hp, hs]

/-- A code whose event triggers does not pass. -/
theorem Device.passes_of_stopped {s t : State} {k : EventKind} {id : DevId} {d : Device} {c : Byte} {a x : Word}
    (hk : eventKind d.spec.kinds c = some k) (h : s.occur k id d c a x = .ok (.stopped, t)) : d.passes c = false := by
  rcases State.occur_cases h with ⟨hx, -⟩ | ⟨hx, -⟩ | ⟨-, hs, hm, -⟩
  · cases hx
  · cases hx
  · simp [Device.passes, hk, hs, hm]

/-- How a transaction is stopped: a raised code, not passing, triggered at the answering device. -/
def StoppedBy (s t : State) (id : DevId) (d : Device) (tx : Tx) : Prop :=
  ∃ c ∈ d.detects tx, d.passes c = false ∧ ∃ k s', eventKind d.spec.kinds c = some k ∧
    s.occur k id d c (tx.eventAddr s.draws) (tx.eventData (s.draws + 1)) = .ok (.stopped, s') ∧ t = s'.drawn 2

theorem State.checkEvents_stopped {s t : State} {id : DevId} {d : Device} {tx : Tx}
    (h : s.checkEvents id d tx = .ok (.stopped, t)) : StoppedBy s t id d tx := by
  rcases State.checkEvents_cases h with ⟨-, -, hv⟩ | ⟨-, c, hc, k, s', hk, ho, ht⟩
  · split at hv <;> cases hv
  · exact ⟨c, hc, Device.passes_of_stopped hk ho, k, s', hk, ho, ht⟩

theorem Device.passes_of_carriesOut {d : Device} {tx : Tx} (h : d.carriesOut tx = true) :
    (d.detects tx).all d.passes = true := by
  simp only [Device.carriesOut, Bool.and_eq_true] at h
  exact h.1

/-- All the codes raised pass: the action is carried out, or prohibited where one of them is a protection event. -/
theorem State.afterEvents_passed {α : Type} {s : State} {id : DevId} {d : Device} {tx : Tx} (f g : State → TxOut α)
    (h : (d.detects tx).all d.passes = true) :
    s.afterEvents id d tx f g = if d.carriesOut tx then f s else g s := by
  rw [State.afterEvents, State.checkEvents_passed (List.all_eq_true.1 h)]
  cases hp : d.protects (d.detects tx) <;> simp [Device.carriesOut, h, hp]

/-- The action is carried out. -/
theorem State.afterEvents_carriesOut {α : Type} {s : State} {id : DevId} {d : Device} {tx : Tx} (f g : State → TxOut α)
    (h : d.carriesOut tx = true) : s.afterEvents id d tx f g = f s := by
  rw [State.afterEvents_passed f g (Device.passes_of_carriesOut h), if_pos h]

/-- Some raised code does not pass: the transaction is stopped or refused by such an event, and the action plays no part. -/
theorem State.afterEvents_blocked {α : Type} (s : State) (id : DevId) {d : Device} {tx : Tx} (f g : State → TxOut α)
    (h : (d.detects tx).all d.passes = false) :
    ∃ c ∈ d.detects tx, d.passes c = false ∧ ∃ k, eventKind d.spec.kinds c = some k ∧
      s.afterEvents id d tx f g =
        match s.occur k id d c (tx.eventAddr s.draws) (tx.eventData (s.draws + 1)) with
        | .ok (_, s') => .stopped (s'.drawn 2)
        | .error r => .refused r := by
  obtain ⟨c, hc, hp, k, hk, he⟩ := State.checkEvents_blocked s id h
  refine ⟨c, hc, hp, k, hk, ?_⟩
  rw [State.afterEvents, he]
  rcases State.occur_blocked (s := s) (id := id) (tx.eventAddr s.draws) (tx.eventData (s.draws + 1)) hk hp with
    ⟨t, ht⟩ | ⟨r, hr⟩
  · simp only [ht]
  · simp only [hr]

/-- A transaction that was performed: all the codes it raised passed. -/
theorem State.afterEvents_done {α : Type} {s t : State} {id : DevId} {d : Device} {tx : Tx} {f g : State → TxOut α} {v : α}
    (h : s.afterEvents id d tx f g = .done v t) : (d.detects tx).all d.passes = true := by
  by_contra hn
  obtain ⟨c, -, hp, k, hk, he⟩ := State.afterEvents_blocked s id f g (Bool.not_eq_true _ ▸ hn)
  rw [h] at he
  split at he <;> cases he

/-- A transaction that was stopped, where neither way to end it stops: an event stopped it. -/
theorem State.afterEvents_stopped {α : Type} {s t : State} {id : DevId} {d : Device} {tx : Tx} {f g : State → TxOut α}
    (hf : ∀ u, f s ≠ .stopped u) (hg : ∀ u, g s ≠ .stopped u) (h : s.afterEvents id d tx f g = .stopped t) :
    StoppedBy s t id d tx := by
  unfold State.afterEvents at h
  split at h
  · cases h
  · next hc => cases h; exact State.checkEvents_stopped hc
  · next hc =>
    rcases State.checkEvents_cases hc with ⟨rfl, -⟩ | ⟨hv, -⟩
    · exact absurd h (hg t)
    · cases hv
  · next hc =>
    rcases State.checkEvents_cases hc with ⟨rfl, -⟩ | ⟨hv, -⟩
    · exact absurd h (hf t)
    · cases hv

/-- An operation that goes on after a transaction: performed, or stopped. -/
theorem TxOut.report_next {α : Type} {o : TxOut α} {f : α → Answer} {t : State} (h : o.report f = .next t) :
    (∃ v u, o = .done v u ∧ t = u.withAnswer (f v)) ∨ ∃ u, o = .stopped u ∧ t = u.withAnswer .stopped := by
  cases o with
  | done v u => cases h; exact .inl ⟨v, u, rfl, rfl⟩
  | stopped u => cases h; exact .inr ⟨u, rfl, rfl⟩
  | refused r => cases h

end Sys2Proof.Machine
end

