-- ==== Sys2Proof/Laws/Sparse.lean ====
section
/-! SUPPORT. The laws of finite tables: read after write, canonical form, what masking and tabulating read as. -/

namespace Sys2Proof.Machine

variable {w : Nat}

@[simp] theorem Sparse.get_nil (k : Nat) : Sparse.get ([] : Sparse w) k = 0#w := rfl

theorem Sparse.get_cons (j : Nat) (v : BitVec w) (t : Sparse w) (k : Nat) :
    Sparse.get ((j, v) :: t) k = if j = k then v else Sparse.get t k := rfl

/-- A table with no entry at `k` reads 0 there. -/
theorem Sparse.get_eq_zero (m : Sparse w) (k : Nat) (h : ∀ p ∈ m, p.1 ≠ k) : Sparse.get m k = 0#w := by
  induction m with
  | nil => rfl
  | cons p t ih =>
    rw [show p :: t = (p.1, p.2) :: t from rfl, Sparse.get_cons, if_neg (h p (by simp))]
    exact ih fun q hq => h q (by simp [hq])

@[simp] theorem Sparse.get_erase_same (m : Sparse w) (k : Nat) : Sparse.get (Sparse.erase m k) k = 0#w :=
  Sparse.get_eq_zero _ _ fun p hp => by
    have h := (List.mem_filter.1 hp).2
    simpa using h

theorem Sparse.get_erase_other (m : Sparse w) {k j : Nat} (h : j ≠ k) :
    Sparse.get (Sparse.erase m k) j = Sparse.get m j := by
  induction m with
  | nil => rfl
  | cons p t ih =>
    obtain ⟨i, v⟩ := p
    by_cases hi : i = k
    · subst hi
      have : Sparse.erase ((i, v) :: t) i = Sparse.erase t i := by simp [Sparse.erase]
      rw [this, ih, Sparse.get_cons, if_neg (Ne.symm h)]
    · have : Sparse.erase ((i, v) :: t) k = (i, v) :: Sparse.erase t k := by simp [Sparse.erase, hi]
      rw [this, Sparse.get_cons, Sparse.get_cons, ih]

theorem Sparse.get_insert_same (m : Sparse w) (k : Nat) (v : BitVec w) (h : ∀ p ∈ m, p.1 ≠ k) :
    Sparse.get (Sparse.insert k v m) k = v := by
  induction m with
  | nil => simp [Sparse.insert, Sparse.get_cons]
  | cons p t ih =>
    obtain ⟨i, u⟩ := p
    simp only [Sparse.insert]
    split
    · simp [Sparse.get_cons]
    · rw [Sparse.get_cons, if_neg (h (i, u) (by simp))]
      exact ih fun q hq => h q (by simp [hq])

theorem Sparse.get_insert_other (m : Sparse w) {k j : Nat} (v : BitVec w) (h : j ≠ k) :
    Sparse.get (Sparse.insert k v m) j = Sparse.get m j := by
  induction m with
  | nil => simp [Sparse.insert, Sparse.get_cons, Ne.symm h]
  | cons p t ih =>
    obtain ⟨i, u⟩ := p
    simp only [Sparse.insert]
    split
    · rw [Sparse.get_cons, if_neg (Ne.symm h)]
    · rw [Sparse.get_cons, Sparse.get_cons, ih]

theorem Sparse.erase_no_key (m : Sparse w) (k : Nat) : ∀ p ∈ Sparse.erase m k, p.1 ≠ k := fun p hp => by
  have h := (List.mem_filter.1 hp).2
  simpa using h

/-- Read after write, same key. -/
@[simp] theorem Sparse.get_set_same (m : Sparse w) (k : Nat) (v : BitVec w) : Sparse.get (Sparse.set m k v) k = v := by
  unfold Sparse.set
  split
  · next h => rw [h]; exact Sparse.get_erase_same m k
  · exact Sparse.get_insert_same _ _ _ (Sparse.erase_no_key m k)

/-- Read after write, another key. -/
theorem Sparse.get_set_other (m : Sparse w) {k j : Nat} (v : BitVec w) (h : j ≠ k) :
    Sparse.get (Sparse.set m k v) j = Sparse.get m j := by
  unfold Sparse.set
  split
  · exact Sparse.get_erase_other m h
  · rw [Sparse.get_insert_other _ v h, Sparse.get_erase_other m h]

/-- Read after write. -/
theorem Sparse.get_set (m : Sparse w) (k j : Nat) (v : BitVec w) :
    Sparse.get (Sparse.set m k v) j = if j = k then v else Sparse.get m j := by
  split
  · next h => rw [h, Sparse.get_set_same]
  · next h => exact Sparse.get_set_other m v h

/-! ## The canonical form -/

theorem Sparse.wf_iff (size : Nat) (m : Sparse w) :
    Sparse.wf size m = true ↔ (m.Pairwise fun p q => p.1 < q.1) ∧ ∀ p ∈ m, p.1 < size ∧ p.2 ≠ 0#w := by
  simp [Sparse.wf, List.all_eq_true]

@[simp] theorem Sparse.wf_nil (size : Nat) : Sparse.wf size ([] : Sparse w) = true := by simp [Sparse.wf_iff]

theorem Sparse.wf_cons (size j : Nat) (v : BitVec w) (t : Sparse w) :
    Sparse.wf size ((j, v) :: t) = true ↔
      (∀ p ∈ t, j < p.1) ∧ (j < size ∧ v ≠ 0#w) ∧ Sparse.wf size t = true := by
  simp only [Sparse.wf_iff, List.pairwise_cons, List.mem_cons, forall_eq_or_imp]
  tauto

theorem Sparse.wf_erase {size : Nat} {m : Sparse w} (k : Nat) (h : Sparse.wf size m = true) :
    Sparse.wf size (Sparse.erase m k) = true := by
  rw [Sparse.wf_iff] at h ⊢
  exact ⟨h.1.sublist List.filter_sublist, fun p hp => h.2 p (List.mem_of_mem_filter hp)⟩

theorem Sparse.mem_insert {k : Nat} {v : BitVec w} {m : Sparse w} {p : Nat × BitVec w}
    (h : p ∈ Sparse.insert k v m) : p = (k, v) ∨ p ∈ m := by
  induction m with
  | nil => simpa [Sparse.insert] using h
  | cons q t ih =>
    simp only [Sparse.insert] at h
    split at h
    · simpa using h
    · rcases List.mem_cons.1 h with rfl | h
      · exact .inr (by simp)
      · rcases ih h with h | h
        · exact .inl h
        · exact .inr (by simp [h])

theorem Sparse.wf_insert {size k : Nat} {v : BitVec w} {m : Sparse w} (hk : k < size) (hv : v ≠ 0#w)
    (hn : ∀ p ∈ m, p.1 ≠ k) (h : Sparse.wf size m = true) : Sparse.wf size (Sparse.insert k v m) = true := by
  induction m with
  | nil => simp [Sparse.insert, Sparse.wf_iff, hk, hv]
  | cons q t ih =>
    obtain ⟨j, u⟩ := q
    have hq := (Sparse.wf_cons size j u t).1 h
    simp only [Sparse.insert]
    split
    · next hlt =>
      refine (Sparse.wf_cons ..).2 ⟨fun p hp => ?_, ⟨hk, hv⟩, h⟩
      rcases List.mem_cons.1 hp with rfl | hp
      · exact hlt
      · exact Nat.lt_trans hlt (hq.1 p hp)
    · next hge =>
      have hjk : j ≠ k := hn (j, u) (by simp)
      refine (Sparse.wf_cons ..).2 ⟨fun p hp => ?_, hq.2.1, ih (fun p hp => hn p (by simp [hp])) hq.2.2⟩
      rcases Sparse.mem_insert hp with rfl | hp
      · simp only; omega
      · exact hq.1 p hp

/-- A write keeps the canonical form. -/
theorem Sparse.wf_set {size k : Nat} {m : Sparse w} (v : BitVec w) (hk : k < size) (h : Sparse.wf size m = true) :
    Sparse.wf size (Sparse.set m k v) = true := by
  unfold Sparse.set
  split
  · exact Sparse.wf_erase k h
  · next hv => exact Sparse.wf_insert hk hv (Sparse.erase_no_key m k) (Sparse.wf_erase k h)

theorem Sparse.mem_set {k : Nat} {v : BitVec w} {m : Sparse w} {p : Nat × BitVec w} (h : p ∈ Sparse.set m k v) :
    p = (k, v) ∨ p ∈ m := by
  unfold Sparse.set at h
  split at h
  · exact .inr (List.mem_of_mem_filter h)
  · rcases Sparse.mem_insert h with h | h
    · exact .inl h
    · exact .inr (List.mem_of_mem_filter h)

/-! ## Masking every entry -/

theorem Sparse.mem_andAll {m : Sparse w} {mask : BitVec w} {p : Nat × BitVec w} (h : p ∈ Sparse.andAll m mask) :
    ∃ q ∈ m, p = (q.1, q.2 &&& mask) ∧ q.2 &&& mask ≠ 0#w := by
  simp only [Sparse.andAll, List.mem_filterMap] at h
  obtain ⟨q, hq, hp⟩ := h
  split at hp
  · cases hp
  · next hne => exact ⟨q, hq, by simpa using hp.symm, hne⟩

/-- Masking keeps the canonical form. -/
theorem Sparse.wf_andAll {size : Nat} {m : Sparse w} (mask : BitVec w) (h : Sparse.wf size m = true) :
    Sparse.wf size (Sparse.andAll m mask) = true := by
  rw [Sparse.wf_iff] at h ⊢
  refine ⟨?_, fun p hp => ?_⟩
  · refine List.Pairwise.filterMap _ (S := fun p q : Nat × BitVec w => p.1 < q.1) (fun a a' haa b hb b' hb' => ?_) h.1
    split at hb <;> simp at hb
    split at hb' <;> simp at hb'
    subst hb hb'
    exact haa
  · obtain ⟨q, hq, rfl, hne⟩ := Sparse.mem_andAll hp
    exact ⟨(h.2 q hq).1, hne⟩

/-- Masking a canonical table masks every entry it reads. -/
theorem Sparse.get_andAll {size : Nat} {m : Sparse w} (mask : BitVec w) (h : Sparse.wf size m = true) (k : Nat) :
    Sparse.get (Sparse.andAll m mask) k = Sparse.get m k &&& mask := by
  induction m with
  | nil => simp [Sparse.andAll]
  | cons q t ih =>
    obtain ⟨j, u⟩ := q
    have hq := (Sparse.wf_cons size j u t).1 h
    by_cases hu : u &&& mask = 0#w
    · have e : Sparse.andAll ((j, u) :: t) mask = Sparse.andAll t mask := by simp [Sparse.andAll, hu]
      rw [e, ih hq.2.2, Sparse.get_cons]
      split
      · next hj =>
        subst hj
        rw [hu, Sparse.get_eq_zero t j fun p hp => Nat.ne_of_gt (hq.1 p hp)]
        simp
      · rfl
    · have e : Sparse.andAll ((j, u) :: t) mask = (j, u &&& mask) :: Sparse.andAll t mask := by
        simp [Sparse.andAll, hu]
      rw [e, Sparse.get_cons, Sparse.get_cons, ih hq.2.2]
      split <;> rfl

/-! ## Some entry has a bit set -/

/-- What a canonical table reads is one of its entries, or 0. -/
theorem Sparse.mem_of_get {m : Sparse w} {k : Nat} (h : Sparse.get m k ≠ 0#w) : (k, Sparse.get m k) ∈ m := by
  induction m with
  | nil => exact absurd rfl h
  | cons q t ih =>
    obtain ⟨j, u⟩ := q
    rw [Sparse.get_cons] at h ⊢
    split at h
    · next hj => subst hj; simp
    · next hj => rw [if_neg hj]; exact List.mem_cons_of_mem _ (ih h)

theorem Sparse.get_of_mem {size : Nat} {m : Sparse w} (h : Sparse.wf size m = true) {p : Nat × BitVec w} (hp : p ∈ m) :
    Sparse.get m p.1 = p.2 := by
  induction m with
  | nil => cases hp
  | cons q t ih =>
    obtain ⟨j, u⟩ := q
    have hq := (Sparse.wf_cons size j u t).1 h
    rw [Sparse.get_cons]
    rcases List.mem_cons.1 hp with rfl | hp
    · simp
    · rw [if_neg (Nat.ne_of_lt (hq.1 p hp))]
      exact ih hq.2.2 hp

/-- In a canonical table some entry has bit `n` set iff some key below `size` reads so. -/
theorem Sparse.anyBit_iff {size : Nat} {m : Sparse w} (h : Sparse.wf size m = true) (n : Nat) :
    Sparse.anyBit m n = true ↔ ∃ k, k < size ∧ (Sparse.get m k).getLsbD n = true := by
  simp only [Sparse.anyBit, List.any_eq_true]
  constructor
  · rintro ⟨p, hp, hb⟩
    exact ⟨p.1, (((Sparse.wf_iff _ _).1 h).2 p hp).1, by rw [Sparse.get_of_mem h hp]; exact hb⟩
  · rintro ⟨k, -, hb⟩
    refine ⟨_, Sparse.mem_of_get (k := k) ?_, hb⟩
    intro h0
    rw [h0] at hb
    simp at hb

/-! ## Tabulating a function -/

theorem Sparse.wf_ofFun (size : Nat) (f : Nat → BitVec w) : Sparse.wf size (Sparse.ofFun size f) = true := by
  rw [Sparse.wf_iff]
  refine ⟨?_, fun p hp => ?_⟩
  · refine List.Pairwise.filterMap _ (S := fun p q : Nat × BitVec w => p.1 < q.1) (fun a a' haa b hb b' hb' => ?_) List.pairwise_lt_range
    split at hb <;> simp at hb
    split at hb' <;> simp at hb'
    subst hb hb'
    exact haa
  · simp only [Sparse.ofFun, List.mem_filterMap, List.mem_range] at hp
    obtain ⟨k, hk, hp⟩ := hp
    split at hp
    · cases hp
    · next hne => simp only [Option.some.injEq] at hp; subst hp; exact ⟨hk, hne⟩

theorem Sparse.get_ofFun (size : Nat) (f : Nat → BitVec w) (k : Nat) (hk : k < size) :
    Sparse.get (Sparse.ofFun size f) k = f k := by
  by_cases h0 : f k = 0#w
  · rw [h0]
    refine Sparse.get_eq_zero _ _ fun p hp hpk => ?_
    simp only [Sparse.ofFun, List.mem_filterMap, List.mem_range] at hp
    obtain ⟨j, _, hp⟩ := hp
    split at hp
    · cases hp
    · next hne => simp only [Option.some.injEq] at hp; subst hp; simp only at hpk; rw [hpk] at hne; exact hne h0
  · have hm : (k, f k) ∈ Sparse.ofFun size f := by
      simp only [Sparse.ofFun, List.mem_filterMap, List.mem_range]
      exact ⟨k, hk, by simp [h0]⟩
    exact Sparse.get_of_mem (Sparse.wf_ofFun size f) hm

theorem Sparse.get_erase (m : Sparse w) (k j : Nat) :
    Sparse.get (Sparse.erase m k) j = if j = k then 0#w else Sparse.get m j := by
  split
  · next h => rw [h, Sparse.get_erase_same]
  · next h => exact Sparse.get_erase_other m h

end Sys2Proof.Machine
end

