-- ==== Sys2Proof/Laws/Change.lean ====
section
/-! SUPPORT. What a step can do, said once: every operation but POWERON and RESUME is a chain of the elementary changes
listed here, so a property that each of them keeps is kept by the operation. -/

namespace Sys2Proof.Machine

/-- The elementary changes of the state. The four that belong to a triggered event need `ev = true`. -/
inductive Change : Bool → State → State → Prop where
  | answer {ev : Bool} (s : State) (a : Answer) : Change ev s (s.withAnswer a)
  | bus {ev : Bool} (s : State) (b : Byte) : Change ev s (s.withBus b)
  | drawn {ev : Bool} (s : State) (n : Nat) : Change ev s (s.drawn n)
  | core {ev : Bool} (s : State) (c : Core) : Change ev s (s.withCore c)
  | pending {ev : Bool} (s : State) (bs : List Byte) : Change ev s (s.withPending bs)
  /-- a byte stored in a cell -/
  | store {ev : Bool} (s : State) (cell : Nat) (b : Byte) (h : cell < memorySize) :
      Change ev s (s.withMem (s.mem.write cell b))
  | ehcr {ev : Bool} (s : State) (id : DevId) (d : Device) (h : s.dev? id = some d) (c : Byte) :
      Change ev s (s.setDev id { d with ehcr := c })
  /-- a table entry replaced; its reserved bits stay -/
  | flags {ev : Bool} (s : State) (id : DevId) (d : Device) (h : s.dev? id = some d) (c : Byte) (f : Word)
      (hf : f &&& reservedFlags = d.flags c &&& reservedFlags) : Change ev s (s.setDev id (d.setFlags c f))
  | emvr {ev : Bool} (s : State) (id : DevId) (d : Device) (h : s.dev? id = some d) (v : Word) :
      Change ev s (s.setDev id { d with emvr := v })
  | devAxr {ev : Bool} (s : State) (id : DevId) (d : Device) (h : s.dev? id = some d) (i : Byte) (v : Word) :
      Change ev s (s.setDev id { d with devAxr := d.devAxr.set i.toNat v })
  /-- CLEARSILENTFLAGS at every device -/
  | clear {ev : Bool} (s : State) : Change ev s s.clearSilentFlags
  /-- a trigger recorded at the device of the event -/
  | trigger (s : State) (id : DevId) (d : Device) (h : s.dev? id = some d) (k : EventKind) (c : Byte) (a x : Word) :
      Change true s (s.setDev id (d.recordTrigger s.hw k c a x))
  | suspend (s : State) : Change true s s.suspendAll
  | shutdown (s : State) : Change true s s.shutdownAll
  | monitor (s : State) (v : Word) : Change true s (s.enterMonitor v)

/-- A chain of elementary changes; without triggered events where `ev` is false. -/
abbrev Chain (ev : Bool) : State → State → Prop := Relation.ReflTransGen (Change ev)

theorem Change.any {ev : Bool} {s t : State} (h : Change ev s t) : Change true s t := by
  cases h <;> constructor <;> assumption

theorem Chain.any {ev : Bool} {s t : State} (h : Chain ev s t) : Chain true s t := by
  induction h with
  | refl => exact .refl
  | tail _ hb ih => exact ih.tail hb.any

theorem Chain.nil {ev : Bool} (s : State) : Chain ev s s := Relation.ReflTransGen.refl

theorem Chain.one {ev : Bool} {s t : State} (h : Change ev s t) : Chain ev s t := .single h

/-- A property each change keeps is kept along a chain. -/
theorem Chain.keeps {ev : Bool} {P : State → Prop} (h : ∀ s t, Change ev s t → P s → P t) {s t : State} (hc : Chain ev s t) (hs : P s) :
    P t := by
  induction hc with
  | refl => exact hs
  | tail _ hb ih => exact h _ _ hb ih

/-- A relation each change stays in, and that composes, holds along a chain. -/
theorem Chain.related {ev : Bool} {R : State → State → Prop} (hr : ∀ s, R s s) (ht : ∀ s t u, R s t → R t u → R s u)
    (h : ∀ s t, Change ev s t → R s t) {s t : State} (hc : Chain ev s t) : R s t := by
  induction hc with
  | refl => exact hr s
  | tail _ hb ih => exact ht _ _ _ ih (h _ _ hb)

/-! ## Events -/

theorem State.handle_chain {s t : State} {d : Device} {f : Word} (h : s.handle d f = .ok t) : Chain true s t := by
  rcases State.handle_cases h with ⟨-, -, -, rfl⟩ | ⟨-, -, rfl⟩ | ⟨-, -, -, rfl⟩ | ⟨-, -, -, rfl⟩
  · split
    · exact (Chain.one (.monitor s _)).trans (Chain.one (.suspend _))
    · exact Chain.one (.monitor s _)
  · exact Chain.one (.suspend s)
  · exact Chain.one (.shutdown s)
  · exact .refl

/-- An event that triggers records and is handled; one that does not changes nothing (60_exceptions.md R142). -/
theorem State.occur_chain {s t : State} {k : EventKind} {id : DevId} {d : Device} {c : Byte} {a x : Word}
    {r : OccurResult} (hd : s.dev? id = some d) (h : s.occur k id d c a x = .ok (r, t)) :
    if r = .stopped then Chain true s t else t = s := by
  rcases State.occur_cases h with ⟨rfl, rfl, -⟩ | ⟨rfl, rfl, -⟩ | ⟨rfl, -, -, hh⟩
  · simp
  · simp
  · exact (Chain.one (.trigger s id d hd k c a x)).trans (State.handle_chain hh)

theorem State.checkEvents_chain {s t : State} {id : DevId} {d : Device} {tx : Tx} {v : Verdict}
    (hd : s.dev? id = some d) (h : s.checkEvents id d tx = .ok (v, t)) :
    if v = .stopped then Chain true s t else t = s := by
  rcases State.checkEvents_cases h with ⟨rfl, -, rfl⟩ | ⟨rfl, c, -, k, s', -, ho, rfl⟩
  · split <;> simp
  · exact (show Chain true s s' from State.occur_chain hd ho).trans (Chain.one (.drawn s' 2))

/-! ## Transactions -/

/-- What a transaction or an instruction does: performed, a chain without triggered events; stopped, any chain. -/
def TxOut.Chained {α : Type} (s : State) : TxOut α → Prop
  | .done _ t => Chain false s t
  | .stopped t => Chain true s t
  | .refused _ => True

theorem TxOut.Chained.after {α : Type} {s t : State} {o : TxOut α} (h : Chain false s t) (ho : o.Chained t) :
    o.Chained s := by
  cases o with
  | done v u => exact h.trans ho
  | stopped u => exact h.any.trans ho
  | refused r => trivial

theorem State.openRead_chained (s : State) : s.openRead.Chained s :=
  (Chain.one (.bus s _)).trans (Chain.one (.drawn _ 1))

/-- Who answers a memory address is a device of the machine that responds (20_memory.md R62, R66). -/
theorem State.memTarget_dev {s : State} {a : Word} {id : DevId} {d : Device} {st : StoreKind}
    (h : s.memTarget a = some (id, d, st)) : s.answering id = some d := by
  unfold State.memTarget at h
  split at h
  · cases h
  · split at h
    · cases h
    · next e he => cases h; exact he

/-- Who answers a port is a device of the machine that responds (R64, R66). -/
theorem State.portTarget_dev {s : State} {p : Byte} {id : DevId} {d : Device} (h : s.portTarget p = some (id, d)) :
    s.answering id = some d := by
  unfold State.portTarget at h
  split at h
  · cases h
  · split at h
    · cases h
    · next e he => cases h; exact he

theorem cellOf_lt (id : DevId) (a : Word) : cellOf id a < memorySize := by
  unfold cellOf memorySize
  omega

/-- A transaction at a device of the machine: what each ending of its events goes on with decides. -/
theorem State.afterEvents_chained {α : Type} {s : State} {id : DevId} {d : Device} {tx : Tx} {f g : State → TxOut α}
    (hd : s.dev? id = some d) (hf : (f s).Chained s) (hg : (g s).Chained s) : (s.afterEvents id d tx f g).Chained s := by
  unfold State.afterEvents
  split
  · trivial
  · next s' hc => exact State.checkEvents_chain hd hc
  · next s' hc => rw [show s' = s from State.checkEvents_chain hd hc]; exact hg
  · next s' hc => rw [show s' = s from State.checkEvents_chain hd hc]; exact hf

theorem State.loadByte_chained (s : State) (st : StoreKind) (cell : Nat) : (s.loadByte st cell).Chained s := by
  cases st with
  | unfixed => exact s.openRead_chained
  | ram | rom => exact Chain.one (.bus s _)

theorem State.storeByte_chained (s : State) (st : StoreKind) {cell : Nat} (b : Byte) (h : cell < memorySize) :
    (s.storeByte st cell b).Chained s := by
  cases st with
  | ram => exact Chain.one (.store s _ b h)
  | rom | unfixed => exact Chain.nil s

theorem State.memRead_chained (s : State) (a : Word) : (s.memRead a).Chained s := by
  unfold State.memRead
  split
  · exact Chain.nil s
  · next id d st ht =>
    exact State.afterEvents_chained (State.answering_dev (State.memTarget_dev ht)).1 (s.loadByte_chained st _)
      s.openRead_chained

theorem State.memWrite_chained (s : State) (a : Word) (b : Byte) : (s.memWrite a b).Chained s := by
  unfold State.memWrite
  split
  · exact Chain.one (.bus s b)
  · next id d st ht =>
    exact TxOut.Chained.after (Chain.one (.bus s b)) (State.afterEvents_chained
      (State.answering_dev (State.memTarget_dev ht)).1 (State.storeByte_chained _ st b (cellOf_lt id a)) (Chain.nil _))

theorem State.portRead_chained (s : State) (p : Byte) : (s.portRead p).Chained s := by
  unfold State.portRead
  split
  · exact Chain.nil s
  · next id d ht =>
    exact State.afterEvents_chained (State.answering_dev (State.portTarget_dev ht)).1 s.openRead_chained s.openRead_chained

theorem State.portWrite_chained (s : State) (p b : Byte) : (s.portWrite p b).Chained s := by
  unfold State.portWrite
  split
  · exact Chain.one (.bus s b)
  · next id d ht =>
    exact TxOut.Chained.after (Chain.one (.bus s b)) (State.afterEvents_chained
      (State.answering_dev (State.portTarget_dev ht)).1 (Chain.nil _) (Chain.nil _))

theorem State.axrRead_chained (s : State) (id : DevId) (r : AxrReader) : (s.axrRead id r).Chained s := by
  unfold State.axrRead
  split <;> exact Chain.one (.drawn s _)

/-- The registers of the machine: no write, EHCR, EHFR, EMVR, or a device-specific one. -/
inductive AxrReg.Known : AxrReg → Prop where
  | readOnly (r : AxrReader) : Known (readOnly r)
  | ehcr : Known regEhcr
  | ehfr : Known regEhfr
  | emvr : Known regEmvr
  | devspec (i : Byte) : Known (regDevspec i)

theorem axrReg_known (i : Byte) : (axrReg i).Known := by
  unfold axrReg
  split <;> first | exact .readOnly _ | exact .ehcr | exact .ehfr | exact .emvr | exact .devspec i

/-- A masked update leaves what stands outside the mask (41_axr_access.md R102). -/
theorem masked_update_reserved (cur v : Word) :
    ((cur &&& ~~~definedFlags) ||| (v &&& definedFlags)) &&& reservedFlags = cur &&& reservedFlags := by
  have h : reservedFlags = ~~~definedFlags := by decide
  rw [h]
  ext i hi
  simp only [BitVec.getElem_and, BitVec.getElem_or, BitVec.getElem_not]
  cases cur[i] <;> cases v[i] <;> cases definedFlags[i] <;> rfl

/-- What an accepted write does to the device. -/
theorem AxrReg.Known.write_chain {g : AxrReg} (hg : g.Known) {s : State} {id : DevId} {d : Device}
    (hd : s.dev? id = some d) (q : State) (v : Word) :
    Chain false s (s.setDev id (g.write (((g.read q id d).1 &&& ~~~g.writable d) ||| (v &&& g.writable d)) d)) := by
  cases hg with
  | readOnly r => rw [show (Machine.readOnly r).write _ d = d from rfl, State.setDev_self hd]
  | ehcr => exact .single (.ehcr s id d hd _)
  | ehfr => exact .single (.flags s id d hd d.ehcr _ (masked_update_reserved _ v))
  | emvr => exact .single (.emvr s id d hd _)
  | devspec i =>
    show Chain false s (s.setDev id (match devAxrKind d.spec.axrs i with
      | some (.storage _ _) => { d with devAxr := d.devAxr.set i.toNat _ }
      | some .unfixed => d
      | none => d))
    split
    · exact .single (.devAxr s id d hd i _)
    · rw [State.setDev_self hd]
    · rw [State.setDev_self hd]

theorem State.writeChecked_chained {s : State} {id : DevId} {d : Device} {g : AxrReg} (hg : g.Known)
    (hd : s.dev? id = some d) (v : Word) : (s.writeChecked id d g v).Chained s := by
  have h1 : Chain false s (s.drawn (g.read s id d).2) := Chain.one (.drawn s _)
  unfold State.writeChecked
  dsimp only
  split
  · exact h1.trans (hg.write_chain (by simpa using hd) s v)
  · exact h1

theorem State.axrWrite_chained (s : State) (id : DevId) (i : Byte) {g : AxrReg} (hg : g.Known) (v : Word) :
    (s.axrWrite id i g v).Chained s := by
  unfold State.axrWrite
  split
  · exact Chain.nil s
  · next d hd =>
    have hd := (State.answering_dev hd).1
    exact State.afterEvents_chained hd (State.writeChecked_chained hg hd v) (Chain.nil s)

/-! ## Instructions of the PROC -/

/-- An instruction that goes on after a transaction of it. -/
theorem TxOut.andThen_chained {α β : Type} {s : State} {o : TxOut α} {f : α → State → TxOut β} (h : o.Chained s)
    (hf : ∀ v t, (f v t).Chained t) : (o.andThen f).Chained s := by
  cases o with
  | done v t => exact (hf v t).after h
  | stopped t => exact h
  | refused r => trivial

theorem runProg_chained (p : CoreProg) (s : State) : (runProg p s).Chained s := by
  induction p generalizing s with
  | complete c => exact Chain.nil s
  | unknownOpcode => exact Chain.nil s
  | memRd a k ih => exact TxOut.andThen_chained (s.memRead_chained a) fun b t => ih b t
  | memWr a b k ih => exact TxOut.andThen_chained (s.memWrite_chained a b) fun _ t => ih t
  | portRd p k ih => exact TxOut.andThen_chained (s.portRead_chained p) fun b t => ih b t
  | portWr p b k ih => exact TxOut.andThen_chained (s.portWrite_chained p b) fun _ t => ih t
  | axrRd id i k ih => exact TxOut.andThen_chained (s.axrRead_chained id _) fun v t => ih v t
  | axrWr id i v k ih => exact TxOut.andThen_chained (s.axrWrite_chained id i (axrReg_known i) v) fun e t => ih e t
  | undetermined k ih => exact (ih _ _).after (Chain.one (.drawn s 1))

theorem State.complete_chain (s : State) (c : Core) : Chain false s (s.complete c) := by
  unfold State.complete
  dsimp only
  split
  · exact (Chain.one (.core s c)).trans (Chain.one (.clear _))
  · exact Chain.one (.core s c)

/-! ## Operations -/

/-- The operation reports that an event triggered. -/
def Answer.triggered : Answer → Bool
  | .stopped => true
  | .event .stopped => true
  | _ => false

/-- What an operation does: a chain of elementary changes, with those of a triggered event only where it reports one. -/
def OpChain (s t : State) : Prop := Chain true s t ∧ (t.answer.triggered = false → Chain false s t)

theorem OpChain.of_chain {s t : State} (h : Chain false s t) : OpChain s t := ⟨h.any, fun _ => h⟩

theorem OpChain.of_triggered {s t : State} (h : Chain true s t) (ha : t.answer.triggered = true) : OpChain s t :=
  ⟨h, fun hf => by rw [ha] at hf; cases hf⟩

/-- An operation that only reports. -/
theorem OpChain.report (s : State) (a : Answer) : OpChain s (s.withAnswer a) := .of_chain (Chain.one (.answer s a))

theorem State.invalidInstr_opChain {s t u : State} (hs : Chain false u s) (h : s.invalidInstr = .next t) :
    OpChain u t := by
  unfold State.invalidInstr at h
  split at h
  · cases h; exact .of_chain (hs.trans (Chain.one (.answer s _)))
  · next d hd =>
    split at h
    · next r s' ho =>
      cases h
      refine .of_triggered (hs.any.trans ?_) rfl
      refine Relation.ReflTransGen.trans ?_ ((Chain.one (.drawn s' 2)).trans (Chain.one (.answer _ _)))
      have := State.occur_chain hd ho
      split at this
      · exact this
      · rw [this]
    · cases h
    · cases h

theorem State.instruction_opChain {s t : State} {p : CoreProg} (h : s.instruction p = .next t) : OpChain s t := by
  have hr := runProg_chained p s
  unfold State.instruction at h
  split at h
  · cases h
  · next s' hp =>
    rw [hp] at hr
    cases h
    exact .of_triggered (Relation.ReflTransGen.trans hr (Chain.one (.answer s' _))) rfl
  · next s' hp => rw [hp] at hr; exact State.invalidInstr_opChain hr h
  · next c s' hp =>
    rw [hp] at hr
    cases h
    exact .of_chain ((Relation.ReflTransGen.trans hr (State.complete_chain s' c)).trans (Chain.one (.answer _ _)))

theorem TxOut.report_opChain {α : Type} {s t : State} {o : TxOut α} {f : α → Answer} (ho : o.Chained s)
    (h : o.report f = .next t) : OpChain s t := by
  cases o with
  | done v u => cases h; exact .of_chain (Relation.ReflTransGen.trans ho (Chain.one (.answer u _)))
  | stopped u => cases h; exact .of_triggered (Relation.ReflTransGen.trans ho (Chain.one (.answer u _))) rfl
  | refused r => cases h

theorem axrReadOp_opChain {s t : State} {id : DevId} {r : AxrReader} (h : axrReadOp id r s = .next t) :
    OpChain s t := TxOut.report_opChain (s.axrRead_chained id r) h

theorem axrWriteOp_opChain {s t : State} {id : DevId} {n : Byte} {g : AxrReg} (hg : g.Known) {v : Word}
    (h : axrWriteOp id n g v s = .next t) : OpChain s t := TxOut.report_opChain (s.axrWrite_chained id n hg v) h

theorem execEvent_opChain {s t : State} {id : DevId} {c : Byte} {a x : Word} (h : execEvent id c a x s = .next t) :
    OpChain s t := by
  unfold execEvent at h
  split at h
  · cases h; exact .report s _
  · next d hd =>
    split at h
    · cases h; exact .report s _
    · split at h
      · next r s' ho =>
        cases h
        have hc := State.occur_chain hd ho
        split at hc
        · next hr => subst hr; exact .of_triggered (Relation.ReflTransGen.trans hc (Chain.one (.answer s' _))) rfl
        · rw [hc]; exact .report s _
      · cases h

theorem execProcstep_opChain {s t : State} (h : execProcstep s = .next t) : OpChain s t := by
  unfold execProcstep at h
  split at h
  · cases h; exact .report s _
  · exact State.instruction_opChain h

theorem execLdHlNn_opChain {s t : State} {nn : Word} (h : execLdHlNn nn s = .next t) : OpChain s t := by
  unfold execLdHlNn at h
  split at h
  · cases h; exact .report s _
  · exact State.instruction_opChain h

theorem execAndAB_opChain {s t : State} (h : execAndAB s = .next t) : OpChain s t := by
  unfold execAndAB at h
  split at h
  · cases h; exact .report s _
  · exact State.instruction_opChain h

theorem execSysmsg_opChain {s t : State} (h : execSysmsgClearsilentflags s = .next t) : OpChain s t := by
  cases h
  exact .of_chain ((Chain.one (.clear s)).trans (Chain.one (.answer _ _)))

/-- POWERON or RESUME, whose effect `exec_poweron` and `exec_resume` give. -/
def isControl : Instr → Bool
  | .poweron _ => true
  | .resume => true
  | _ => false

/-- Every other operation is a chain of elementary changes. -/
theorem exec_opChain {i : Instr} {s t : State} (hi : isControl i = false) (h : exec i s = .next t) : OpChain s t := by
  cases i
  case poweron => cases hi
  case resume => cases hi
  case memrd a => exact TxOut.report_opChain (State.memRead_chained s a) h
  case memwr a b => exact TxOut.report_opChain (State.memWrite_chained s a b) h
  case portrd p => exact TxOut.report_opChain (State.portRead_chained s p) h
  case portwr p b => exact TxOut.report_opChain (State.portWrite_chained s p b) h
  case axrwr id j v => exact axrWriteOp_opChain (axrReg_known j) h
  case axrwrEhcr id v => exact axrWriteOp_opChain .ehcr h
  case axrwrEhfr id v => exact axrWriteOp_opChain .ehfr h
  case axrwrEmvr id v => exact axrWriteOp_opChain .emvr h
  case axrwrDevspec10 id j v => exact axrWriteOp_opChain (.devspec j) h
  case axrwrDevspec20 id j v => exact axrWriteOp_opChain (.devspec j) h
  case axrwrDevspec40 id j v => exact axrWriteOp_opChain (.devspec j) h
  case axrwrDevspec80 id j v => exact axrWriteOp_opChain (.devspec j) h
  case sysmsgClearsilentflags => exact execSysmsg_opChain h
  case event => exact execEvent_opChain h
  case procstep => exact execProcstep_opChain h
  case ldHlNn => exact execLdHlNn_opChain h
  case andAB => exact execAndAB_opChain h
  all_goals first
    | exact axrReadOp_opChain h
    | exact axrWriteOp_opChain (.readOnly _) h

/-! ## Device by device -/

/-- Every device of `s` is in relation `R` with the device of the same ID in `t`. -/
def Devwise (R : Device → Device → Prop) (s t : State) : Prop :=
  ∀ id d, s.dev? id = some d → ∃ e, t.dev? id = some e ∧ R d e

theorem Devwise.allDevs {R : Device → Device → Prop} {f : Device → Device} (h : ∀ d, R d (f d)) (s : State) :
    Devwise R s (s.allDevs f) := fun _ d hd => ⟨f d, by simp [hd], h d⟩

theorem Devwise.setDev {R : Device → Device → Prop} (hr : ∀ d, R d d) {s : State} {id : DevId} {d e : Device}
    (hd : s.dev? id = some d) (h : R d e) : Devwise R s (s.setDev id e) := by
  intro id' d' hd'
  by_cases hi : id' = id
  · subst hi
    rw [hd] at hd'
    cases hd'
    exact ⟨e, State.dev?_setDev_same hd, h⟩
  · exact ⟨d', (State.dev?_setDev_other s e hi).trans hd', hr d'⟩

/-- What the elementary changes do to one device: a preorder that each of these keeps holds along every chain. -/
structure DeviceClosed (ev : Bool) (R : Device → Device → Prop) : Prop where
  refl : ∀ d, R d d
  trans : ∀ {a b c}, R a b → R b c → R a c
  ehcr : ∀ d c, R d { d with ehcr := c }
  flags : ∀ d c f, f &&& reservedFlags = d.flags c &&& reservedFlags → R d (d.setFlags c f)
  emvr : ∀ d v, R d { d with emvr := v }
  devAxr : ∀ d (i : Byte) v, R d { d with devAxr := d.devAxr.set i.toNat v }
  clear : ∀ d, R d d.clearSilent
  trigger : ev = true → ∀ hw k d c a x, R d (d.recordTrigger hw k c a x)
  suspend : ev = true → ∀ d, R d { d with susp := true }
  shutdown : ev = true → ∀ d, R d { d with shut := true }
  monitor : ev = true → ∀ d, R d { d with mode := .monitor }

theorem DeviceClosed.change {ev : Bool} {R : Device → Device → Prop} (hR : DeviceClosed ev R) {s t : State}
    (h : Change ev s t) : Devwise R s t := by
  cases h with
  | answer | bus | drawn | core | pending | store => exact fun _ d hd => ⟨d, hd, hR.refl d⟩
  | ehcr _ id d h c => exact Devwise.setDev hR.refl h (hR.ehcr d c)
  | flags _ id d h c f hf => exact Devwise.setDev hR.refl h (hR.flags d c f hf)
  | emvr _ id d h v => exact Devwise.setDev hR.refl h (hR.emvr d v)
  | devAxr _ id d h i v => exact Devwise.setDev hR.refl h (hR.devAxr d i v)
  | clear => exact Devwise.allDevs hR.clear s
  | trigger _ id d h k c a x => exact Devwise.setDev hR.refl h (hR.trigger rfl _ k d c a x)
  | suspend => exact Devwise.allDevs (hR.suspend rfl) s
  | shutdown => exact Devwise.allDevs (hR.shutdown rfl) s
  | monitor _ v => exact Devwise.allDevs (f := fun e => { e with mode := .monitor }) (hR.monitor rfl) s

theorem DeviceClosed.chain {ev : Bool} {R : Device → Device → Prop} (hR : DeviceClosed ev R) {s t : State}
    (h : Chain ev s t) : Devwise R s t :=
  Chain.related (fun _ _ d hd => ⟨d, hd, hR.refl d⟩)
    (fun _ _ _ h1 h2 id d hd => by
      obtain ⟨e, he, hde⟩ := h1 id d hd
      obtain ⟨f, hf, hef⟩ := h2 id e he
      exact ⟨f, hf, hR.trans hde hef⟩)
    (fun _ _ => hR.change) h

/-! ## POWERON and RESUME -/

theorem State.dev?_powerOn (s : State) (cfg : BitVec 12) (id : DevId) :
    (s.powerOn cfg).dev? id =
      (s.dev? id).map fun d => powerOnDev s.draws (cfg &&& definedConfig s.hw.sms1Bit) id.toNat d.spec := by
  simp only [State.dev?, State.powerOn, List.getElem?_mapIdx]
  cases s.devs[id.toNat]? with
  | none => rfl
  | some o => cases o <;> simp

theorem State.powerOn_hw (s : State) (cfg : BitVec 12) : (s.powerOn cfg).hw = s.hw := by simp only [State.powerOn]

theorem State.powerOn_poc (s : State) (cfg : BitVec 12) :
    (s.powerOn cfg).poc = cfg &&& definedConfig s.hw.sms1Bit := by simp only [State.powerOn]

theorem State.powerOn_pc (s : State) (cfg : BitVec 12) : (s.powerOn cfg).core.pc = 0#16 := by
  simp only [State.powerOn]
  rfl

theorem State.powerOn_pending (s : State) (cfg : BitVec 12) : (s.powerOn cfg).pending = s.pending := by
  simp only [State.powerOn]

theorem State.powerOn_devs (s : State) (cfg : BitVec 12) :
    (s.powerOn cfg).devs = s.devs.mapIdx fun slot o =>
      o.map fun d => powerOnDev s.draws (cfg &&& definedConfig s.hw.sms1Bit) slot d.spec := by
  simp only [State.powerOn]

/-- The bits Power-On samples are the ones that are not reserved, and the position of the SMS1 Bus bit (10_state.md R27). -/
theorem definedConfig_eq (b : Sms1Bit) : definedConfig b = sampledBits b := by cases b <;> rfl

theorem sms1Index_eq (b : Sms1Bit) : sms1Index b = if b = .bit4 then 4 else 3 := by cases b <;> rfl

/-- Bits 9, 8 and 1:0 of a configuration are defined under both positions of the SMS1 Bus bit (10_state.md R27). -/
theorem definedConfig_bits (b : Sms1Bit) (cfg : BitVec 12) :
    (cfg &&& definedConfig b).getLsbD 9 = cfg.getLsbD 9 ∧ (cfg &&& definedConfig b).getLsbD 8 = cfg.getLsbD 8 ∧
      (cfg &&& definedConfig b).extractLsb' 0 2 = cfg.extractLsb' 0 2 := by
  cases b <;> refine ⟨by simp [definedConfig], by simp [definedConfig], ?_⟩ <;> ext i hi <;> interval_cases i <;>
    simp [definedConfig]

theorem State.powerOn_bootMap (s : State) (cfg : BitVec 12) : (s.powerOn cfg).bootMap = cfg.extractLsb' 0 2 := by
  simp only [State.powerOn]
  exact (definedConfig_bits _ cfg).2.2

/-- What POWERON does (70_reset_and_hazards.md R181, R183). -/
theorem exec_poweron {s t : State} {cfg : BitVec 12} (h : exec (.poweron cfg) s = .next t) :
    s.postPassed = true ∧ t = (s.powerOn cfg).withAnswer .done := by
  simp only [exec, execPoweron] at h
  split at h
  · next hp => cases h; exact ⟨hp, rfl⟩
  · cases h

theorem exec_poweron_passed {s : State} (h : s.postPassed = true) (cfg : BitVec 12) :
    exec (.poweron cfg) s = .next ((s.powerOn cfg).withAnswer .done) := by
  simp only [exec, execPoweron, h, if_true]

/-- The table of a device after Power-On (10_state.md R45, 70_reset_and_hazards.md R187). -/
theorem powerOnDev_flags (n : Nat) (cfg : BitVec 12) (slot : Nat) (spec : DeviceSpec) (c : Byte) :
    (powerOnDev n cfg slot spec).flags c =
      match eventKind spec.kinds c with
      | some k => defaultFlags k
      | none => Config.powerOnFlags n slot c.toNat &&& definedFlags := by
  cases hk : eventKind spec.kinds c <;>
    simp only [Device.flags, powerOnDev, powerOnTable, Sparse.get_ofFun _ _ _ c.isLt, BitVec.ofNat_toNat, BitVec.setWidth_eq, hk]

/-- What RESUME does (43_external_debugger.md R135). -/
theorem exec_resume {s t : State} (h : exec .resume s = .next t) :
    (s.resumable = true ∧ t = s.resumeAll.withAnswer .done) ∨ (s.resumable = false ∧ t = s.withAnswer .notEnabled) := by
  simp only [exec, execResume] at h
  split at h
  · next hp => cases h; exact .inl ⟨hp, rfl⟩
  · next hp => cases h; exact .inr ⟨by simpa using hp, rfl⟩

/-- A step that goes on is one operation: the PROC's, or the first of the host's pending ones, its bytes taken away
(log entry 4). -/
theorem step_cases {s t : State} (h : step s = .next t) :
    (s.pending = [] ∧ exec .procstep s = .next t) ∨
    ∃ i rest, decode s.pending = .ok (i, rest) ∧ exec i (s.withPending rest) = .next t := by
  unfold step at h
  split at h
  · next hp => exact .inl ⟨hp, h⟩
  · split at h
    · next i rest hd => exact .inr ⟨i, rest, hd, h⟩
    · cases h

end Sys2Proof.Machine
end

