-- ==== Sys2Proof/Laws/Axr.lean ====
section
/-! SUPPORT. What an AXR read and an AXR write of a device that answers can do (41_axr_access.md R100 to R102), and the laws
of the table entries behind EHCR and EHFR. -/

namespace Sys2Proof.Machine

@[simp] theorem State.drawn_zero (s : State) : s.drawn 0 = s := rfl

@[simp] theorem State.answering_withAnswer (s : State) (a : Answer) (id : DevId) :
    (s.withAnswer a).answering id = s.answering id := rfl

@[simp] theorem State.answering_drawn (s : State) (n : Nat) (id : DevId) : (s.drawn n).answering id = s.answering id := rfl

/-- A device replaced by one that also answers. -/
theorem State.answering_setDev {s : State} {id : DevId} {d e : Device} (h : s.answering id = some d)
    (hr : e.responds = d.responds) : (s.setDev id e).answering id = some e := by
  obtain ⟨h1, h2⟩ := State.answering_dev h
  exact State.answering_of (State.dev?_setDev_same h1) (hr.trans h2)

/-- Nobody answers: no device, or a disabled or shut-down one (20_memory.md R66). -/
theorem State.answering_none_iff (s : State) (id : DevId) :
    s.answering id = none ↔ ∀ d, s.dev? id = some d → d.enab = false ∨ d.shut = true := by
  unfold State.answering
  split
  · next d hd =>
    by_cases he : d.enab = true <;> by_cases hs : d.shut = true <;> simp [hd, Device.responds, he, hs]
  · next hd => simp [hd]

/-! ## Reads -/

theorem State.axrRead_unanswered {s : State} {id : DevId} (h : s.answering id = none) (r : AxrReader) :
    s.axrRead id r = s.openAxrRead := by
  simp [State.axrRead, h]

theorem State.axrRead_answered {s : State} {id : DevId} {d : Device} (h : s.answering id = some d) (r : AxrReader) :
    s.axrRead id r = .done (r s id d).1 (s.drawn (r s id d).2) := by
  simp [State.axrRead, h]

/-- A read is always performed and draws free values at most (R100; 20_memory.md R70). -/
theorem State.axrRead_eq (s : State) (id : DevId) (r : AxrReader) : ∃ v k, s.axrRead id r = .done v (s.drawn k) := by
  rcases hd : s.answering id with _ | d
  · exact ⟨_, 1, State.axrRead_unanswered hd r⟩
  · exact ⟨_, _, State.axrRead_answered hd r⟩

/-- The operation of a read, whoever answers. -/
theorem axrReadOp_eq (s : State) (id : DevId) (r : AxrReader) :
    ∃ v k, axrReadOp id r s = .next ((s.drawn k).withAnswer (.word v)) := by
  obtain ⟨v, k, h⟩ := s.axrRead_eq id r
  exact ⟨v, k, by rw [axrReadOp, h]; rfl⟩

/-- The operation of a read that is answered (R100). -/
theorem axrReadOp_answered {s : State} {id : DevId} {d : Device} (h : s.answering id = some d) (r : AxrReader) :
    axrReadOp id r s = .next ((s.drawn (r s id d).2).withAnswer (.word (r s id d).1)) := by
  rw [axrReadOp, State.axrRead_answered h]
  rfl

/-- The operation of a read that nobody answers (R100). -/
theorem axrReadOp_unanswered {s : State} {id : DevId} (h : s.answering id = none) (r : AxrReader) :
    axrReadOp id r s = .next ((s.drawn 1).withAnswer (.word (Config.freeBits 16 s.draws))) := by
  rw [axrReadOp, State.axrRead_unanswered h]
  rfl

/-! ## Writes -/

theorem State.axrWrite_unanswered {s : State} {id : DevId} (h : s.answering id = none) (n : Byte) (g : AxrReg) (v : Word) :
    s.axrWrite id n g v = .done false s := by
  simp [State.axrWrite, h]

theorem State.axrWrite_answered {s : State} {id : DevId} {d : Device} (h : s.answering id = some d) (n : Byte) (g : AxrReg)
    (v : Word) :
    s.axrWrite id n g v = s.afterEvents id d (.axrWrite n v) (fun s' => s'.writeChecked id d g v) (.done false) := by
  simp [State.axrWrite, h]

/-- A write that would change no bit outside the writable ones is carried out (R102). -/
theorem State.writeChecked_accepted {s : State} {id : DevId} {d : Device} {g : AxrReg} {v : Word}
    (hv : (v ^^^ (g.read s id d).1) &&& ~~~(g.writable d) = 0#16) :
    s.writeChecked id d g v = .done false ((s.drawn (g.read s id d).2).setDev id
      (g.write (((g.read s id d).1 &&& ~~~(g.writable d)) ||| (v &&& g.writable d)) d)) := by
  simp only [State.writeChecked, hv, if_true]

/-- Any other write is discarded whole (R102). -/
theorem State.writeChecked_discarded {s : State} {id : DevId} {d : Device} {g : AxrReg} {v : Word}
    (hv : (v ^^^ (g.read s id d).1) &&& ~~~(g.writable d) ≠ 0#16) :
    s.writeChecked id d g v = .done true (s.drawn (g.read s id d).2) := by
  simp only [State.writeChecked, hv, if_false]

theorem State.axrWrite_stopped {s t : State} {id : DevId} {n : Byte} {g : AxrReg} {v : Word}
    (h : s.axrWrite id n g v = .stopped t) : ∃ d, s.answering id = some d ∧ StoppedBy s t id d (.axrWrite n v) := by
  rcases hd : s.answering id with _ | d
  · rw [State.axrWrite_unanswered hd] at h; cases h
  · rw [State.axrWrite_answered hd] at h
    refine ⟨d, rfl, State.afterEvents_stopped (fun u => ?_) (fun u => by simp) h⟩
    by_cases hv : (v ^^^ (g.read s id d).1) &&& ~~~(g.writable d) = 0#16
    · rw [State.writeChecked_accepted hv]; simp
    · rw [State.writeChecked_discarded hv]; simp

/-- The operation of a write that is answered and carried out: the discard rule decides (R101, R102). -/
theorem axrWriteOp_answered {s : State} {id : DevId} {d : Device} {n : Byte} {v : Word} (h : s.answering id = some d)
    (hc : d.carriesOut (.axrWrite n v) = true) (g : AxrReg) :
    axrWriteOp id n g v s = (s.writeChecked id d g v).report fun e => if e then .axrWriteError else .done := by
  rw [axrWriteOp, State.axrWrite_answered h, State.afterEvents_carriesOut _ _ hc]

/-- The operation of a write whose events let it pass but prohibit it: it is thrown out (60_exceptions.md R151). -/
theorem axrWriteOp_prohibited {s : State} {id : DevId} {d : Device} {n : Byte} {v : Word} (h : s.answering id = some d)
    (hp : (d.detects (.axrWrite n v)).all d.passes = true) (hc : d.carriesOut (.axrWrite n v) = false) (g : AxrReg) :
    axrWriteOp id n g v s = .next (s.withAnswer .done) := by
  rw [axrWriteOp, State.axrWrite_answered h, State.afterEvents_passed _ _ hp, hc]
  rfl

theorem axrWriteOp_accepted {s : State} {id : DevId} {d : Device} {n : Byte} {g : AxrReg} {v : Word}
    (h : s.answering id = some d) (hc : d.carriesOut (.axrWrite n v) = true)
    (hv : (v ^^^ (g.read s id d).1) &&& ~~~(g.writable d) = 0#16) :
    axrWriteOp id n g v s =
      .next (((s.drawn (g.read s id d).2).setDev id
        (g.write (((g.read s id d).1 &&& ~~~(g.writable d)) ||| (v &&& g.writable d)) d)).withAnswer .done) := by
  rw [axrWriteOp_answered h hc, State.writeChecked_accepted hv]
  rfl

theorem axrWriteOp_discarded {s : State} {id : DevId} {d : Device} {n : Byte} {g : AxrReg} {v : Word}
    (h : s.answering id = some d) (hc : d.carriesOut (.axrWrite n v) = true)
    (hv : (v ^^^ (g.read s id d).1) &&& ~~~(g.writable d) ≠ 0#16) :
    axrWriteOp id n g v s = .next ((s.drawn (g.read s id d).2).withAnswer .axrWriteError) := by
  rw [axrWriteOp_answered h hc, State.writeChecked_discarded hv]
  rfl

/-- A write that nobody answers changes nothing (R101). -/
theorem axrWriteOp_unanswered {s : State} {id : DevId} (h : s.answering id = none) (n : Byte) (g : AxrReg) (v : Word) :
    axrWriteOp id n g v s = .next (s.withAnswer .done) := by
  rw [axrWriteOp, State.axrWrite_unanswered h]
  rfl

/-- A write to a read-only register (R102). -/
theorem axrWriteOp_readOnly {s : State} {id : DevId} {d : Device} {n : Byte} {v : Word} (h : s.answering id = some d)
    (hc : d.carriesOut (.axrWrite n v) = true) (r : AxrReader) :
    axrWriteOp id n (readOnly r) v s =
      .next ((s.drawn (r s id d).2).withAnswer (if v = (r s id d).1 then .done else .axrWriteError)) := by
  have hx : (v ^^^ (r s id d).1) &&& ~~~0#16 = 0#16 ↔ v = (r s id d).1 := by
    rw [show ~~~0#16 = BitVec.allOnes 16 from rfl, BitVec.and_allOnes, BitVec.xor_eq_zero_iff]
  by_cases hv : v = (r s id d).1
  · rw [axrWriteOp_accepted h hc (hx.2 hv), if_pos hv]
    show Host.Outcome.next (((s.drawn (r s id d).2).setDev id d).withAnswer .done) = _
    rw [State.setDev_self ((State.dev?_drawn s _ id).trans (State.answering_dev h).1)]
  · rw [axrWriteOp_discarded h hc (fun q => hv (hx.1 q)), if_neg hv]
    rfl

/-! ## The event handling flag table -/

@[simp] theorem Device.setFlags_responds (d : Device) (c : Byte) (f : Word) : (d.setFlags c f).responds = d.responds := rfl

/-- Read after write in the table (10_state.md R24). -/
theorem Device.flags_setFlags (d : Device) (c c' : Byte) (f : Word) :
    (d.setFlags c f).flags c' = if c' = c then f else d.flags c' := by
  simp only [Device.setFlags, Device.flags, Sparse.get_set]
  by_cases h : c' = c
  · simp [h]
  · rw [if_neg h, if_neg fun q => h (BitVec.eq_of_toNat_eq q)]

/-- A sound device has 0 in the reserved bits of every entry (R22). -/
theorem Device.wf_flags {d : Device} (h : d.wf = true) (c : Byte) : d.flags c &&& reservedFlags = 0#16 := by
  simp only [Device.wf, Bool.and_eq_true, List.all_eq_true] at h
  by_cases hz : d.flags c = 0#16
  · rw [hz]; decide
  · simpa [Device.flags] using h.1.1.2 _ (Sparse.mem_of_get hz)

/-- The summary bits of a sound device's table (R30). -/
theorem Device.anyBit_iff {d : Device} (h : d.wf = true) (n : Nat) :
    d.eht.anyBit n = true ↔ ∃ c, (d.flags c).getLsbD n = true := by
  have hw : Sparse.wf 256 d.eht = true := by
    simp only [Device.wf, Bool.and_eq_true] at h
    exact h.1.1.1
  rw [Sparse.anyBit_iff hw]
  constructor
  · rintro ⟨k, hk, hb⟩
    exact ⟨BitVec.ofNat 8 k, by simpa [Device.flags, Nat.mod_eq_of_lt hk] using hb⟩
  · rintro ⟨c, hc⟩
    exact ⟨c.toNat, c.isLt, hc⟩

/-- CLEARSILENTFLAGS on one entry (42_system_messages.md R126). -/
theorem Device.flags_clearSilent {d : Device} (h : d.wf = true) (c : Byte) :
    d.clearSilent.flags c = d.flags c &&& clearKeeps d.mode := by
  have hw : Sparse.wf 256 d.eht = true := by
    simp only [Device.wf, Bool.and_eq_true] at h
    exact h.1.1.1
  exact Sparse.get_andAll _ hw _

end Sys2Proof.Machine
end

