-- ==== Sys2Proof/Laws/Memory.lean ====
section
/-! SUPPORT. The laws of memory: read after write, and the canonical form, which every operation on memory keeps and the
memory after reset and after Power-On has. -/

namespace Sys2Proof.Machine

@[simp] theorem Memory.byte_write_same (m : Memory) (cell : Nat) (b : Byte) : (m.write cell b).byte cell = b :=
  Sparse.get_set_same m cell b

theorem Memory.byte_write_other (m : Memory) {cell cell' : Nat} (b : Byte) (h : cell' ≠ cell) :
    (m.write cell b).byte cell' = m.byte cell' := Sparse.get_set_other m b h

theorem Memory.byte_write (m : Memory) (cell cell' : Nat) (b : Byte) :
    (m.write cell b).byte cell' = if cell' = cell then b else m.byte cell' := Sparse.get_set m cell cell' b

theorem Memory.wf_write {m : Memory} {cell : Nat} (b : Byte) (hc : cell < memorySize) (h : m.wf = true) :
    (m.write cell b).wf = true := Sparse.wf_set b hc h

theorem State.reset_mem_wf : Memory.wf State.reset.mem = true := Sparse.wf_nil _

theorem State.powerOn_mem_wf (s : State) (cfg : BitVec 12) : Memory.wf (s.powerOn cfg).mem = true := by
  simp only [Memory.wf, State.powerOn]
  exact Sparse.wf_ofFun memorySize _

theorem Change.memory_wf {ev : Bool} {s t : State} (h : Change ev s t) (hs : s.mem.wf = true) : t.mem.wf = true := by
  cases h with
  | store _ cell b hc => exact Memory.wf_write b hc hs
  | _ => exact hs

/-- Cells of two devices are different, and so are cells of two addresses (20_memory.md R62). -/
theorem cellOf_inj {id id' : DevId} {a a' : Word} : cellOf id a = cellOf id' a' ↔ id = id' ∧ a = a' := by
  constructor
  · intro h
    have h1 := id.isLt
    have h2 := id'.isLt
    have h3 := a.isLt
    have h4 := a'.isLt
    unfold cellOf at h
    exact ⟨BitVec.eq_of_toNat_eq (by omega), BitVec.eq_of_toNat_eq (by omega)⟩
  · rintro ⟨rfl, rfl⟩
    rfl

end Sys2Proof.Machine
end

