-- ==== Sys2Proof/Laws/Bus.lean ====
section
/-! SUPPORT. What a byte transaction can do: nobody answers, all the codes it raises pass, or an event stops it
(20_memory.md R62, R64, R66, R67; 60_exceptions.md R141, R151). -/

namespace Sys2Proof.Machine

/-! ## Memory reads -/

theorem State.memRead_unanswered {s : State} {a : Word} (h : s.memTarget a = none) :
    s.memRead a = .done s.undrivenRead s := by
  simp [State.memRead, h]

theorem State.memRead_answered {s : State} {a : Word} {id : DevId} {d : Device} {st : StoreKind}
    (h : s.memTarget a = some (id, d, st)) :
    s.memRead a = s.afterEvents id d (.memRead a) (fun s' => s'.loadByte st (cellOf id a)) State.openRead := by
  simp [State.memRead, h]

theorem State.memRead_passed {s : State} {a : Word} {id : DevId} {d : Device} {st : StoreKind}
    (h : s.memTarget a = some (id, d, st)) (hp : (d.detects (.memRead a)).all d.passes = true) :
    s.memRead a =
      if d.carriesOut (.memRead a) && st != .unfixed then
        .done (s.mem.byte (cellOf id a)) (s.withBus (s.mem.byte (cellOf id a)))
      else s.openRead := by
  rw [State.memRead_answered h, State.afterEvents_passed _ _ hp]
  cases d.carriesOut (.memRead a) <;> cases st <;> rfl

theorem State.memRead_done {s t : State} {a : Word} {v : Byte} (h : s.memRead a = .done v t) :
    s.memTarget a = none ∨
      ∃ id d st, s.memTarget a = some (id, d, st) ∧ (d.detects (.memRead a)).all d.passes = true := by
  rcases hm : s.memTarget a with _ | ⟨id, d, st⟩
  · exact .inl rfl
  · rw [State.memRead_answered hm] at h
    exact .inr ⟨id, d, st, rfl, State.afterEvents_done h⟩

theorem State.memRead_stopped {s t : State} {a : Word} (h : s.memRead a = .stopped t) :
    ∃ id d st, s.memTarget a = some (id, d, st) ∧ StoppedBy s t id d (.memRead a) := by
  rcases hm : s.memTarget a with _ | ⟨id, d, st⟩
  · rw [State.memRead_unanswered hm] at h; cases h
  · rw [State.memRead_answered hm] at h
    exact ⟨id, d, st, rfl, State.afterEvents_stopped (fun u => by cases st <;> simp [State.loadByte, State.openRead])
      (fun u => by simp [State.openRead]) h⟩

/-! ## Memory writes -/

theorem State.memWrite_unanswered {s : State} {a : Word} (b : Byte) (h : s.memTarget a = none) :
    s.memWrite a b = .done () (s.withBus b) := by
  simp [State.memWrite, h]

theorem State.memWrite_answered {s : State} {a : Word} (b : Byte) {id : DevId} {d : Device} {st : StoreKind}
    (h : s.memTarget a = some (id, d, st)) :
    s.memWrite a b =
      (s.withBus b).afterEvents id d (.memWrite a b) (fun s' => s'.storeByte st (cellOf id a) b) (.done ()) := by
  simp [State.memWrite, h]

theorem State.memWrite_passed {s : State} {a : Word} {b : Byte} {id : DevId} {d : Device} {st : StoreKind}
    (h : s.memTarget a = some (id, d, st)) (hp : (d.detects (.memWrite a b)).all d.passes = true) :
    s.memWrite a b =
      .done () (if d.carriesOut (.memWrite a b) && st == .ram then (s.withBus b).withMem (s.mem.write (cellOf id a) b)
        else s.withBus b) := by
  rw [State.memWrite_answered b h, State.afterEvents_passed _ _ hp]
  cases d.carriesOut (.memWrite a b) <;> cases st <;> rfl

theorem State.memWrite_done {s t : State} {a : Word} {b : Byte} {v : Unit} (h : s.memWrite a b = .done v t) :
    s.memTarget a = none ∨
      ∃ id d st, s.memTarget a = some (id, d, st) ∧ (d.detects (.memWrite a b)).all d.passes = true := by
  rcases hm : s.memTarget a with _ | ⟨id, d, st⟩
  · exact .inl rfl
  · rw [State.memWrite_answered b hm] at h
    exact .inr ⟨id, d, st, rfl, State.afterEvents_done h⟩

theorem State.memWrite_stopped {s t : State} {a : Word} {b : Byte} (h : s.memWrite a b = .stopped t) :
    ∃ id d st, s.memTarget a = some (id, d, st) ∧ StoppedBy (s.withBus b) t id d (.memWrite a b) := by
  rcases hm : s.memTarget a with _ | ⟨id, d, st⟩
  · rw [State.memWrite_unanswered b hm] at h; cases h
  · rw [State.memWrite_answered b hm] at h
    exact ⟨id, d, st, rfl, State.afterEvents_stopped (fun u => by cases st <;> simp [State.storeByte]) (fun u => by simp) h⟩

/-! ## Port reads and writes -/

theorem State.portRead_unanswered {s : State} {p : Byte} (h : s.portTarget p = none) :
    s.portRead p = .done s.undrivenRead s := by
  simp [State.portRead, h]

theorem State.portRead_answered {s : State} {p : Byte} {id : DevId} {d : Device} (h : s.portTarget p = some (id, d)) :
    s.portRead p = s.afterEvents id d (.portRead p) State.openRead State.openRead := by
  simp [State.portRead, h]

theorem State.portRead_passed {s : State} {p : Byte} {id : DevId} {d : Device} (h : s.portTarget p = some (id, d))
    (hp : (d.detects (.portRead p)).all d.passes = true) : s.portRead p = s.openRead := by
  rw [State.portRead_answered h, State.afterEvents_passed _ _ hp, ite_self]

theorem State.portRead_done {s t : State} {p v : Byte} (h : s.portRead p = .done v t) :
    s.portTarget p = none ∨ ∃ id d, s.portTarget p = some (id, d) ∧ (d.detects (.portRead p)).all d.passes = true := by
  rcases hm : s.portTarget p with _ | ⟨id, d⟩
  · exact .inl rfl
  · rw [State.portRead_answered hm] at h
    exact .inr ⟨id, d, rfl, State.afterEvents_done h⟩

theorem State.portRead_stopped {s t : State} {p : Byte} (h : s.portRead p = .stopped t) :
    ∃ id d, s.portTarget p = some (id, d) ∧ StoppedBy s t id d (.portRead p) := by
  rcases hm : s.portTarget p with _ | ⟨id, d⟩
  · rw [State.portRead_unanswered hm] at h; cases h
  · rw [State.portRead_answered hm] at h
    exact ⟨id, d, rfl, State.afterEvents_stopped (fun u => by simp [State.openRead]) (fun u => by simp [State.openRead]) h⟩

theorem State.portWrite_unanswered {s : State} {p : Byte} (b : Byte) (h : s.portTarget p = none) :
    s.portWrite p b = .done () (s.withBus b) := by
  simp [State.portWrite, h]

theorem State.portWrite_answered {s : State} {p : Byte} (b : Byte) {id : DevId} {d : Device}
    (h : s.portTarget p = some (id, d)) :
    s.portWrite p b = (s.withBus b).afterEvents id d (.portWrite p b) (.done ()) (.done ()) := by
  simp [State.portWrite, h]

theorem State.portWrite_passed {s : State} {p b : Byte} {id : DevId} {d : Device} (h : s.portTarget p = some (id, d))
    (hp : (d.detects (.portWrite p b)).all d.passes = true) : s.portWrite p b = .done () (s.withBus b) := by
  rw [State.portWrite_answered b h, State.afterEvents_passed _ _ hp, ite_self]

theorem State.portWrite_done {s t : State} {p b : Byte} {v : Unit} (h : s.portWrite p b = .done v t) :
    s.portTarget p = none ∨
      ∃ id d, s.portTarget p = some (id, d) ∧ (d.detects (.portWrite p b)).all d.passes = true := by
  rcases hm : s.portTarget p with _ | ⟨id, d⟩
  · exact .inl rfl
  · rw [State.portWrite_answered b hm] at h
    exact .inr ⟨id, d, rfl, State.afterEvents_done h⟩

theorem State.portWrite_stopped {s t : State} {p b : Byte} (h : s.portWrite p b = .stopped t) :
    ∃ id d, s.portTarget p = some (id, d) ∧ StoppedBy (s.withBus b) t id d (.portWrite p b) := by
  rcases hm : s.portTarget p with _ | ⟨id, d⟩
  · rw [State.portWrite_unanswered b hm] at h; cases h
  · rw [State.portWrite_answered b hm] at h
    exact ⟨id, d, rfl, State.afterEvents_stopped (fun u => by simp) (fun u => by simp) h⟩

/-! ## What looking up the answering device does not depend on -/

@[simp] theorem State.memTarget_withBus (s : State) (b : Byte) (a : Word) :
    (s.withBus b).memTarget a = s.memTarget a := rfl
@[simp] theorem State.memTarget_withMem (s : State) (m : Memory) (a : Word) :
    (s.withMem m).memTarget a = s.memTarget a := rfl
@[simp] theorem State.memTarget_drawn (s : State) (n : Nat) (a : Word) : (s.drawn n).memTarget a = s.memTarget a := rfl
@[simp] theorem State.memTarget_withAnswer (s : State) (x : Answer) (a : Word) :
    (s.withAnswer x).memTarget a = s.memTarget a := rfl
@[simp] theorem State.readsThrough_withBus (s : State) (b : Byte) (a : Word) :
    (s.withBus b).readsThrough a = s.readsThrough a := rfl
@[simp] theorem State.readsThrough_drawn (s : State) (n : Nat) (a : Word) :
    (s.drawn n).readsThrough a = s.readsThrough a := rfl
@[simp] theorem State.storedByte_withBus (s : State) (b : Byte) (a : Word) :
    (s.withBus b).storedByte a = s.storedByte a := rfl

/-- A stored byte is what a read returns and drives (R62, R67). -/
theorem State.memRead_stored {s : State} {a : Word} {b : Byte} (h : s.storedByte a = some b) :
    s.memRead a = .done b (s.withBus b) := by
  unfold State.storedByte at h
  split at h
  · cases h
  · next id d st hm =>
    split at h
    · next hc =>
      cases h
      rw [State.memRead_passed hm (Device.passes_of_carriesOut (Bool.and_eq_true _ _ ▸ hc).1), if_pos hc]
    · cases h

/-- A read that goes through is performed, and changes the bus latch and the count of free values at most. -/
theorem State.memRead_through {s : State} {a : Word} (h : s.readsThrough a = true) :
    ∃ v b n, s.memRead a = .done v ((s.withBus b).drawn n) := by
  unfold State.readsThrough at h
  split at h
  · next hm => exact ⟨_, s.busLast, 0, State.memRead_unanswered hm⟩
  · next id d st hm =>
    rw [State.memRead_passed hm h]
    split
    · exact ⟨s.mem.byte (cellOf id a), s.mem.byte (cellOf id a), 0, rfl⟩
    · exact ⟨_, _, 1, rfl⟩

end Sys2Proof.Machine
end

