-- ==== Sys2Proof/Laws/PerInstr.lean ====
section
/-! SUPPORT. The per-instruction family `EncodeLength`: the record of every operation is eight bytes (log entry 5). -/

namespace Sys2Proof.Laws.EncodeLength

open Sys2Proof

/-- The operation's encoding is eight bytes long. -/
def Statement (i : Instr) : Prop := (encode i).length = 8

theorem memrd (a : Word) : Statement (.memrd a) := rfl
theorem memwr (a : Word) (b : Byte) : Statement (.memwr a b) := rfl
theorem portrd (p : Byte) : Statement (.portrd p) := rfl
theorem portwr (p : Byte) (b : Byte) : Statement (.portwr p b) := rfl
theorem axrrd (id : DevId) (i : Byte) : Statement (.axrrd id i) := rfl
theorem axrwr (id : DevId) (i : Byte) (v : Word) : Statement (.axrwr id i v) := rfl
theorem axrrdDir (id : DevId) : Statement (.axrrdDir id) := rfl
theorem axrrdPocr (id : DevId) : Statement (.axrrdPocr id) := rfl
theorem axrrdDmr (id : DevId) : Statement (.axrrdDmr id) := rfl
theorem axrrdDvr (id : DevId) : Statement (.axrrdDvr id) := rfl
theorem axrrdDsr (id : DevId) : Statement (.axrrdDsr id) := rfl
theorem axrrdReserved05 (id : DevId) : Statement (.axrrdReserved05 id) := rfl
theorem axrrdReserved06 (id : DevId) : Statement (.axrrdReserved06 id) := rfl
theorem axrrdReserved07 (id : DevId) : Statement (.axrrdReserved07 id) := rfl
theorem axrrdEhcr (id : DevId) : Statement (.axrrdEhcr id) := rfl
theorem axrrdEhfr (id : DevId) : Statement (.axrrdEhfr id) := rfl
theorem axrrdEmvr (id : DevId) : Statement (.axrrdEmvr id) := rfl
theorem axrrdReserved0B (id : DevId) : Statement (.axrrdReserved0B id) := rfl
theorem axrrdDecr (id : DevId) : Statement (.axrrdDecr id) := rfl
theorem axrrdDear (id : DevId) : Statement (.axrrdDear id) := rfl
theorem axrrdDedr (id : DevId) : Statement (.axrrdDedr id) := rfl
theorem axrrdDefr (id : DevId) : Statement (.axrrdDefr id) := rfl
theorem axrrdDevspec10 (id : DevId) (i : Byte) : Statement (.axrrdDevspec10 id i) := rfl
theorem axrrdDevspec20 (id : DevId) (i : Byte) : Statement (.axrrdDevspec20 id i) := rfl
theorem axrrdDevspec40 (id : DevId) (i : Byte) : Statement (.axrrdDevspec40 id i) := rfl
theorem axrrdDevspec80 (id : DevId) (i : Byte) : Statement (.axrrdDevspec80 id i) := rfl
theorem axrwrDir (id : DevId) (v : Word) : Statement (.axrwrDir id v) := rfl
theorem axrwrPocr (id : DevId) (v : Word) : Statement (.axrwrPocr id v) := rfl
theorem axrwrDmr (id : DevId) (v : Word) : Statement (.axrwrDmr id v) := rfl
theorem axrwrDvr (id : DevId) (v : Word) : Statement (.axrwrDvr id v) := rfl
theorem axrwrDsr (id : DevId) (v : Word) : Statement (.axrwrDsr id v) := rfl
theorem axrwrReserved05 (id : DevId) (v : Word) : Statement (.axrwrReserved05 id v) := rfl
theorem axrwrReserved06 (id : DevId) (v : Word) : Statement (.axrwrReserved06 id v) := rfl
theorem axrwrReserved07 (id : DevId) (v : Word) : Statement (.axrwrReserved07 id v) := rfl
theorem axrwrEhcr (id : DevId) (v : Word) : Statement (.axrwrEhcr id v) := rfl
theorem axrwrEhfr (id : DevId) (v : Word) : Statement (.axrwrEhfr id v) := rfl
theorem axrwrEmvr (id : DevId) (v : Word) : Statement (.axrwrEmvr id v) := rfl
theorem axrwrReserved0B (id : DevId) (v : Word) : Statement (.axrwrReserved0B id v) := rfl
theorem axrwrDecr (id : DevId) (v : Word) : Statement (.axrwrDecr id v) := rfl
theorem axrwrDear (id : DevId) (v : Word) : Statement (.axrwrDear id v) := rfl
theorem axrwrDedr (id : DevId) (v : Word) : Statement (.axrwrDedr id v) := rfl
theorem axrwrDefr (id : DevId) (v : Word) : Statement (.axrwrDefr id v) := rfl
theorem axrwrDevspec10 (id : DevId) (i : Byte) (v : Word) : Statement (.axrwrDevspec10 id i v) := rfl
theorem axrwrDevspec20 (id : DevId) (i : Byte) (v : Word) : Statement (.axrwrDevspec20 id i v) := rfl
theorem axrwrDevspec40 (id : DevId) (i : Byte) (v : Word) : Statement (.axrwrDevspec40 id i v) := rfl
theorem axrwrDevspec80 (id : DevId) (i : Byte) (v : Word) : Statement (.axrwrDevspec80 id i v) := rfl
theorem sysmsgClearsilentflags : Statement .sysmsgClearsilentflags := rfl
theorem event (d : DevId) (c : Byte) (a : Word) (x : Word) : Statement (.event d c a x) := rfl
theorem procstep : Statement .procstep := rfl
theorem poweron (cfg : BitVec 12) : Statement (.poweron cfg) := rfl
theorem resume : Statement .resume := rfl
theorem ldHlNn (nn : Word) : Statement (.ldHlNn nn) := rfl
theorem andAB : Statement .andAB := rfl

end Sys2Proof.Laws.EncodeLength
end

