-- ==== Sys2Proof/Laws/Proc.lean ====
section
/-! SUPPORT. What a transaction of an instruction of the PROC leaves when it is performed, and the program of an instruction
under way (40_proc_instructions.md R92). -/

namespace Sys2Proof.Machine

/-! ## What a transaction that is performed leaves -/

/-- The parameters, the PROC's registers and the report of the last operation stay. -/
def TxOut.Keeps {α : Type} (s : State) : TxOut α → Prop
  | .done _ t => t.hw = s.hw ∧ t.core = s.core ∧ t.answer = s.answer
  | .stopped _ => True
  | .refused _ => True

theorem State.afterEvents_keeps {α : Type} {s₀ s : State} {id : DevId} {d : Device} {tx : Tx} {f g : State → TxOut α}
    (hf : (f s).Keeps s₀) (hg : (g s).Keeps s₀) : (s.afterEvents id d tx f g).Keeps s₀ := by
  by_cases hp : (d.detects tx).all d.passes = true
  · rw [State.afterEvents_passed f g hp]
    split
    · exact hf
    · exact hg
  · obtain ⟨c, -, -, k, -, he⟩ := State.afterEvents_blocked s id f g (Bool.not_eq_true _ ▸ hp)
    rw [he]
    split <;> trivial

theorem State.memRead_keeps (s : State) (a : Word) : (s.memRead a).Keeps s := by
  rcases hm : s.memTarget a with _ | ⟨id, d, st⟩
  · rw [State.memRead_unanswered hm]; exact ⟨rfl, rfl, rfl⟩
  · rw [State.memRead_answered hm]
    exact State.afterEvents_keeps (by cases st <;> exact ⟨rfl, rfl, rfl⟩) ⟨rfl, rfl, rfl⟩

theorem State.memWrite_keeps (s : State) (a : Word) (b : Byte) : (s.memWrite a b).Keeps s := by
  rcases hm : s.memTarget a with _ | ⟨id, d, st⟩
  · rw [State.memWrite_unanswered b hm]; exact ⟨rfl, rfl, rfl⟩
  · rw [State.memWrite_answered b hm]
    exact State.afterEvents_keeps (by cases st <;> exact ⟨rfl, rfl, rfl⟩) ⟨rfl, rfl, rfl⟩

theorem State.portRead_keeps (s : State) (p : Byte) : (s.portRead p).Keeps s := by
  rcases hm : s.portTarget p with _ | ⟨id, d⟩
  · rw [State.portRead_unanswered hm]; exact ⟨rfl, rfl, rfl⟩
  · rw [State.portRead_answered hm]
    exact State.afterEvents_keeps ⟨rfl, rfl, rfl⟩ ⟨rfl, rfl, rfl⟩

theorem State.portWrite_keeps (s : State) (p b : Byte) : (s.portWrite p b).Keeps s := by
  rcases hm : s.portTarget p with _ | ⟨id, d⟩
  · rw [State.portWrite_unanswered b hm]; exact ⟨rfl, rfl, rfl⟩
  · rw [State.portWrite_answered b hm]
    exact State.afterEvents_keeps ⟨rfl, rfl, rfl⟩ ⟨rfl, rfl, rfl⟩

theorem State.axrRead_keeps (s : State) (id : DevId) (r : AxrReader) : (s.axrRead id r).Keeps s := by
  obtain ⟨v, k, h⟩ := s.axrRead_eq id r
  rw [h]
  exact ⟨rfl, rfl, rfl⟩

theorem State.axrWrite_keeps (s : State) (id : DevId) (n : Byte) (g : AxrReg) (v : Word) :
    (s.axrWrite id n g v).Keeps s := by
  rcases hd : s.answering id with _ | d
  · rw [State.axrWrite_unanswered hd]; exact ⟨rfl, rfl, rfl⟩
  · rw [State.axrWrite_answered hd]
    refine State.afterEvents_keeps ?_ ⟨rfl, rfl, rfl⟩
    by_cases hv : (v ^^^ (g.read s id d).1) &&& ~~~(g.writable d) = 0#16
    · rw [State.writeChecked_accepted hv]; exact ⟨rfl, rfl, rfl⟩
    · rw [State.writeChecked_discarded hv]; exact ⟨rfl, rfl, rfl⟩

/-! ## The transaction behind the operation -/

/-- An operation that reports something else than that an event stopped it was performed; with the report put back, what it
leaves is what the transaction leaves. -/
theorem TxOut.done_of_report {α : Type} {s w : State} {o : TxOut α} {f : α → Answer} (hk : o.Keeps s)
    (h : o.report f = .next w) (ha : w.answer ≠ .stopped) :
    ∃ v, o = .done v (w.withAnswer s.answer) ∧ w.answer = f v := by
  rcases TxOut.report_next h with ⟨v, u, rfl, rfl⟩ | ⟨u, rfl, rfl⟩
  · refine ⟨v, ?_, rfl⟩
    rw [show (u.withAnswer (f v)).withAnswer s.answer = u from hk.2.2 ▸ rfl]
  · exact absurd rfl ha

/-- A program under way runs on as what is left of it. -/
theorem Underway.runProg_eq {s u : State} {p q : CoreProg} (h : Underway s p q u) : runProg p s = runProg q u := by
  induction h with
  | start => rfl
  | @memRd a k u w b h hx ha ih =>
    obtain ⟨v, ho, hv⟩ := TxOut.done_of_report (u.memRead_keeps a) hx (by simp [ha])
    cases hv.symm.trans ha
    rw [ih, runProg, ho]; rfl
  | @memWr a b k u w h hx ha ih =>
    obtain ⟨v, ho, -⟩ := TxOut.done_of_report (u.memWrite_keeps a b) hx (by simp [ha])
    rw [ih, runProg, ho]; rfl
  | @portRd a k u w b h hx ha ih =>
    obtain ⟨v, ho, hv⟩ := TxOut.done_of_report (u.portRead_keeps a) hx (by simp [ha])
    cases hv.symm.trans ha
    rw [ih, runProg, ho]; rfl
  | @portWr a b k u w h hx ha ih =>
    obtain ⟨v, ho, -⟩ := TxOut.done_of_report (u.portWrite_keeps a b) hx (by simp [ha])
    rw [ih, runProg, ho]; rfl
  | @axrRd id n k u w v h hx ha ih =>
    obtain ⟨v', ho, hv⟩ := TxOut.done_of_report (u.axrRead_keeps id _) hx (by simp [ha])
    cases hv.symm.trans ha
    rw [ih, runProg, ho]; rfl
  | @axrWr id n v k u w e h hx ha ih =>
    obtain ⟨e', ho, hv⟩ := TxOut.done_of_report (u.axrWrite_keeps id n _ v) hx (by rw [ha]; cases e <;> simp)
    have : e' = e := by cases e <;> cases e' <;> simp_all
    subst this
    rw [ih, runProg, ho]; rfl
  | undetermined h ih => rw [ih, runProg]

/-- What is left of a program that has run to this end. -/
def CoreEnd.program : CoreEnd → CoreProg
  | .valid c => .complete c
  | .invalidOpcode => .unknownOpcode

/-- A program under way whose rest runs to an end has come to that end. -/
theorem Underway.of_runProg {s w : State} {p : CoreProg} {e : CoreEnd} (q : CoreProg) :
    ∀ {u : State}, Underway s p q u → runProg q u = .done e w → Underway s p e.program w := by
  have put : ∀ {α : Type} {u v : State} {o : TxOut α} {x : α} (f : α → Answer), o.Keeps u → o = .done x v →
      o.report f = .next (v.withAnswer (f x)) ∧ (v.withAnswer (f x)).withAnswer u.answer = v := fun f hk ho => by
    subst ho
    exact ⟨rfl, hk.2.2 ▸ rfl⟩
  have next : ∀ {α : Type} {o : TxOut α} {k : α → State → TxOut CoreEnd}, o.andThen k = .done e w →
      ∃ x v, o = .done x v ∧ k x v = .done e w := fun {α o k} h => by
    cases o with
    | done x v => exact ⟨x, v, rfl, h⟩
    | stopped v => cases h
    | refused r => cases h
  induction q with
  | complete c => intro u h hr; cases hr; exact h
  | unknownOpcode => intro u h hr; cases hr; exact h
  | memRd a k ih =>
    intro u h hr
    obtain ⟨x, v, ho, hk⟩ := next hr
    obtain ⟨h1, h2⟩ := put .byte (u.memRead_keeps a) ho
    exact ih x (h2 ▸ h.memRd h1 rfl) hk
  | memWr a b k ih =>
    intro u h hr
    obtain ⟨x, v, ho, hk⟩ := next hr
    obtain ⟨h1, h2⟩ := put (fun _ => .done) (u.memWrite_keeps a b) ho
    exact ih (h2 ▸ h.memWr h1 rfl) hk
  | portRd a k ih =>
    intro u h hr
    obtain ⟨x, v, ho, hk⟩ := next hr
    obtain ⟨h1, h2⟩ := put .byte (u.portRead_keeps a) ho
    exact ih x (h2 ▸ h.portRd h1 rfl) hk
  | portWr a b k ih =>
    intro u h hr
    obtain ⟨x, v, ho, hk⟩ := next hr
    obtain ⟨h1, h2⟩ := put (fun _ => .done) (u.portWrite_keeps a b) ho
    exact ih (h2 ▸ h.portWr h1 rfl) hk
  | axrRd id n k ih =>
    intro u h hr
    obtain ⟨x, v, ho, hk⟩ := next hr
    obtain ⟨h1, h2⟩ := put .word (u.axrRead_keeps id (axrReg n).read) ho
    exact ih x (h2 ▸ h.axrRd h1 rfl) hk
  | axrWr id n v k ih =>
    intro u h hr
    obtain ⟨x, v', ho, hk⟩ := next hr
    obtain ⟨h1, h2⟩ := put (fun e => if e then .axrWriteError else .done) (u.axrWrite_keeps id n (axrReg n) v) ho
    exact ih x (h2 ▸ h.axrWr h1 rfl) hk
  | undetermined k ih =>
    intro u h hr
    exact ih _ h.undetermined hr

/-- A program under way has left the parameters, the PROC's registers and the last report. -/
theorem Underway.keeps {s u : State} {p q : CoreProg} (h : Underway s p q u) :
    u.hw = s.hw ∧ u.core = s.core ∧ u.answer = s.answer := by
  have key : ∀ {α : Type} {u w : State} {o : TxOut α} {f : α → Answer}, o.Keeps u → o.report f = .next w →
      w.answer ≠ .stopped → (u.hw = s.hw ∧ u.core = s.core ∧ u.answer = s.answer) →
      (w.withAnswer u.answer).hw = s.hw ∧ (w.withAnswer u.answer).core = s.core ∧
        (w.withAnswer u.answer).answer = s.answer := fun {α u w o f} hk hx ha ih => by
    obtain ⟨v, ho, -⟩ := TxOut.done_of_report hk hx ha
    rw [ho] at hk
    exact ⟨hk.1.trans ih.1, hk.2.1.trans ih.2.1, ih.2.2⟩
  induction h with
  | start => exact ⟨rfl, rfl, rfl⟩
  | @memRd a k u w b h hx ha ih => exact key (u.memRead_keeps a) hx (by simp [ha]) ih
  | @memWr a b k u w h hx ha ih => exact key (u.memWrite_keeps a b) hx (by simp [ha]) ih
  | @portRd a k u w b h hx ha ih => exact key (u.portRead_keeps a) hx (by simp [ha]) ih
  | @portWr a b k u w h hx ha ih => exact key (u.portWrite_keeps a b) hx (by simp [ha]) ih
  | @axrRd id n k u w v h hx ha ih => exact key (u.axrRead_keeps id _) hx (by simp [ha]) ih
  | @axrWr id n v k u w e h hx ha ih => exact key (u.axrWrite_keeps id n _ v) hx (by rw [ha]; cases e <;> simp) ih
  | undetermined h ih => exact ih

/-- An instruction of a running PROC is its program, run to its end (R92). -/
theorem Executes.exec_eq {s : State} {i : Instr} {p : CoreProg} (h : Executes s i p) : exec i s = s.instruction p := by
  cases h with
  | procstep h => simp only [exec, execProcstep, h]
  | ldHlNn h nn => simp only [exec, execLdHlNn, h]
  | andAB h => simp only [exec, execAndAB, h]

end Sys2Proof.Machine
end

