-- ==== Sys2Proof/Tests/Slice0.lean ====
section
/-! SUPPORT. The model's own tests: ill-formed operations refused, records written out byte by byte, single steps whose
expected results are those of spec/95_test_vectors.md (V…) or worked out by hand from the rules cited, and for each
obligation with hypotheses concrete states and operands that meet them. -/

namespace Sys2Proof.Tests

set_option Elab.async false

open Sys2Proof.Machine

/-! ## Well-formedness -/

/-- One ill-formed term for each check (R90, R22): the AXR number just outside each range, each reserved power-on bit. -/
theorem test_wf_refuses :
    ([Instr.axrrdDevspec10 3 0x0F, .axrrdDevspec10 3 0x20, .axrrdDevspec20 3 0x1F, .axrrdDevspec20 3 0x40,
      .axrrdDevspec40 3 0x3F, .axrrdDevspec40 3 0x80, .axrrdDevspec80 3 0x7F, .axrrdDevspec80 3 0x00] ++
     [Instr.axrwrDevspec10 3 0x0F 0, .axrwrDevspec10 3 0x20 0, .axrwrDevspec20 3 0x1F 0, .axrwrDevspec20 3 0x40 0,
      .axrwrDevspec40 3 0x3F 0, .axrwrDevspec40 3 0x80 0, .axrwrDevspec80 3 0x7F 0, .axrwrDevspec80 3 0x00 0] ++
     [Instr.poweron 0x800, .poweron 0x400, .poweron 0x020, .poweron 0x004]).all (fun i => !i.wf) := by decide

theorem test_wf_accepts :
    ([Instr.axrrdDevspec10 3 0x10, .axrrdDevspec10 3 0x1F, .axrrdDevspec20 3 0x20, .axrrdDevspec20 3 0x3F,
      .axrrdDevspec40 3 0x40, .axrrdDevspec40 3 0x7F, .axrrdDevspec80 3 0x80, .axrrdDevspec80 3 0xFF, .poweron 0x3DB] ++
     [Instr.axrwrDevspec10 3 0x1F 0, .axrwrDevspec20 3 0x20 0, .axrwrDevspec40 3 0x7F 0, .axrwrDevspec80 3 0xFF 0]).all
      Instr.wf := by decide

/-! ## Decoding, by records written out from 30_encoding.md R90 and the layout of log entry 5 -/

/-- The bytes are the record of the operation and nothing more. -/
def decodesTo (bs : List Byte) (i : Instr) : Bool :=
  match decode bs with
  | .ok (j, []) => j == i
  | _ => false

/-- The bytes are refused for the reason given. -/
def refusedAs (bs : List Byte) (e : DecodeError) : Bool :=
  match decode bs with
  | .error e' => e' == e
  | .ok _ => false

theorem test_decode_axrrd_predefined :
    decodesTo [0x00, 0, 1, 0, 0, 0, 0, 0] (.axrrdDir 1) && decodesTo [0x01, 0, 2, 0, 0, 0, 0, 0] (.axrrdPocr 2) &&
    decodesTo [0x02, 0, 3, 0, 0, 0, 0, 0] (.axrrdDmr 3) && decodesTo [0x03, 0, 4, 0, 0, 0, 0, 0] (.axrrdDvr 4) &&
    decodesTo [0x04, 0, 5, 0, 0, 0, 0, 0] (.axrrdDsr 5) && decodesTo [0x05, 0, 6, 0, 0, 0, 0, 0] (.axrrdReserved05 6) &&
    decodesTo [0x06, 0, 7, 0, 0, 0, 0, 0] (.axrrdReserved06 7) &&
    decodesTo [0x07, 0, 8, 0, 0, 0, 0, 0] (.axrrdReserved07 8) && decodesTo [0x08, 0, 9, 0, 0, 0, 0, 0] (.axrrdEhcr 9) &&
    decodesTo [0x09, 0, 10, 0, 0, 0, 0, 0] (.axrrdEhfr 10) && decodesTo [0x0A, 0, 11, 0, 0, 0, 0, 0] (.axrrdEmvr 11) &&
    decodesTo [0x0B, 0, 12, 0, 0, 0, 0, 0] (.axrrdReserved0B 12) &&
    decodesTo [0x0C, 0, 13, 0, 0, 0, 0, 0] (.axrrdDecr 13) && decodesTo [0x0D, 0, 14, 0, 0, 0, 0, 0] (.axrrdDear 14) &&
    decodesTo [0x0E, 0, 15, 0, 0, 0, 0, 0] (.axrrdDedr 15) && decodesTo [0x0F, 0, 0, 0, 0, 0, 0, 0] (.axrrdDefr 0) := by decide

theorem test_decode_axrwr_predefined :
    decodesTo [0x00, 1, 1, 0, 0, 0, 0x34, 0x12] (.axrwrDir 1 0x1234) &&
    decodesTo [0x01, 1, 2, 0, 0, 0, 0x34, 0x12] (.axrwrPocr 2 0x1234) &&
    decodesTo [0x02, 1, 3, 0, 0, 0, 0x34, 0x12] (.axrwrDmr 3 0x1234) &&
    decodesTo [0x03, 1, 4, 0, 0, 0, 0x34, 0x12] (.axrwrDvr 4 0x1234) &&
    decodesTo [0x04, 1, 5, 0, 0, 0, 0x34, 0x12] (.axrwrDsr 5 0x1234) &&
    decodesTo [0x05, 1, 6, 0, 0, 0, 0x34, 0x12] (.axrwrReserved05 6 0x1234) &&
    decodesTo [0x06, 1, 7, 0, 0, 0, 0x34, 0x12] (.axrwrReserved06 7 0x1234) &&
    decodesTo [0x07, 1, 8, 0, 0, 0, 0x34, 0x12] (.axrwrReserved07 8 0x1234) &&
    decodesTo [0x08, 1, 9, 0, 0, 0, 0x34, 0x12] (.axrwrEhcr 9 0x1234) &&
    decodesTo [0x09, 1, 10, 0, 0, 0, 0x34, 0x12] (.axrwrEhfr 10 0x1234) &&
    decodesTo [0x0A, 1, 11, 0, 0, 0, 0x34, 0x12] (.axrwrEmvr 11 0x1234) &&
    decodesTo [0x0B, 1, 12, 0, 0, 0, 0x34, 0x12] (.axrwrReserved0B 12 0x1234) &&
    decodesTo [0x0C, 1, 13, 0, 0, 0, 0x34, 0x12] (.axrwrDecr 13 0x1234) &&
    decodesTo [0x0D, 1, 14, 0, 0, 0, 0x34, 0x12] (.axrwrDear 14 0x1234) &&
    decodesTo [0x0E, 1, 15, 0, 0, 0, 0x34, 0x12] (.axrwrDedr 15 0x1234) &&
    decodesTo [0x0F, 1, 0, 0, 0, 0, 0x34, 0x12] (.axrwrDefr 0 0x1234) := by decide

theorem test_decode_axr_other :
    decodesTo [0x1F, 0, 3, 0, 0, 0, 0, 0] (.axrrdDevspec10 3 0x1F) && decodesTo [0x20, 0, 3, 0, 0, 0, 0, 0] (.axrrdDevspec20 3 0x20) &&
    decodesTo [0x7F, 0, 3, 0, 0, 0, 0, 0] (.axrrdDevspec40 3 0x7F) && decodesTo [0xFF, 0, 3, 0, 0, 0, 0, 0] (.axrrdDevspec80 3 0xFF) &&
    decodesTo [0x10, 1, 3, 0, 0, 0, 0xCD, 0xAB] (.axrwrDevspec10 3 0x10 0xABCD) &&
    decodesTo [0x3F, 1, 3, 0, 0, 0, 0xCD, 0xAB] (.axrwrDevspec20 3 0x3F 0xABCD) &&
    decodesTo [0x40, 1, 3, 0, 0, 0, 0xCD, 0xAB] (.axrwrDevspec40 3 0x40 0xABCD) &&
    decodesTo [0x80, 1, 3, 0, 0, 0, 0xCD, 0xAB] (.axrwrDevspec80 3 0x80 0xABCD) &&
    decodesTo [0x09, 2, 3, 0, 0, 0, 0, 0] (.axrrd 3 0x09) && decodesTo [0x80, 3, 3, 0, 0, 0, 0xCD, 0xAB] (.axrwr 3 0x80 0xABCD) := by decide

theorem test_decode_others :
    decodesTo [0, 4, 0, 0, 0x23, 0xC1, 0, 0] (.memrd 0xC123) && decodesTo [0, 5, 0, 0x5A, 0x23, 0xC1, 0, 0] (.memwr 0xC123 0x5A) &&
    decodesTo [0, 6, 0, 0, 0x7E, 0, 0, 0] (.portrd 0x7E) && decodesTo [0, 7, 0, 0x5A, 0xDF, 0, 0, 0] (.portwr 0xDF 0x5A) &&
    decodesTo [0, 8, 0, 0, 0, 0, 0, 0] .sysmsgClearsilentflags &&
    decodesTo [0, 9, 3, 0x20, 0x00, 0xC2, 0x5A, 0x00] (.event 3 0x20 0xC200 0x005A) &&
    decodesTo [0, 10, 0, 0, 0, 0, 0, 0] .procstep && decodesTo [0, 11, 0, 0, 0, 0, 0x42, 0x03] (.poweron 0x342) &&
    decodesTo [0, 12, 0, 0, 0, 0, 0, 0] .resume && decodesTo [0, 13, 0, 0, 0, 0, 0xFF, 0xC0] (.ldHlNn 0xC0FF) &&
    decodesTo [0, 14, 0, 0, 0, 0, 0, 0] .andAB := by decide

theorem test_decode_refuses :
    refusedAs [] .truncated && refusedAs [0, 10, 0, 0, 0, 0, 0] .truncated &&
    refusedAs [0, 15, 0, 0, 0, 0, 0, 0] (.unknownOperation 15) && refusedAs [1, 10, 0, 0, 0, 0, 0, 0] (.reservedField 10) &&
    refusedAs [8, 0, 0x13, 0, 0, 0, 0, 0] (.reservedField 0) && refusedAs [0, 6, 0, 0, 0x7E, 1, 0, 0] (.reservedField 6) &&
    refusedAs [0, 11, 0, 0, 0, 0, 0x42, 0x10] (.reservedField 11) && refusedAs [0, 11, 0, 0, 0, 0, 0x46, 0] (.reservedField 11) := by decide

/-- Every AXR number selects exactly one read row and one write row (R90). -/
theorem test_rows_partition :
    (List.range 256).all (fun n =>
      (axrReadRows.filter fun r => axrNumberMatches r.pat r.mask (BitVec.ofNat 8 n)).length == 1 &&
      (axrWriteRows.filter fun r => axrNumberMatches r.pat r.mask (BitVec.ofNat 8 n)).length == 1) := by decide +kernel

/-- The opcode table's eight-bit words (R90). -/
theorem test_table_words :
    decodeTableWord 8 0x08 = some (.axrrdEhcr 0) ∧ decodeTableWord 8 0x10 = some (.axrrdDevspec10 0 0x10) ∧
    decodeTableWord 8 0x80 = some (.axrrdDevspec80 0 0x80) ∧ decodeTableWord 16 0x0108 = some (.axrwrEhcr 0 0) := by decide

/-! ## A small machine -/

/-- The spec's configuration T (95_test_vectors.md) with its open choices settled, extended by events on reads, ports and
AXR writes, device-specific registers, a region whose contents are not fixed and a one-byte unknown opcode. -/
def benchHw : Hardware :=
  { launchHardware with
    sms1Bit := .bit4
    bpSilence := .currentMode
    defrCopy := .before
    memMap := launchHardware.memMap ++ [⟨0xF000, 0xF0FF, .device 3, .unfixed⟩]
    portMap := [⟨0x40, 0x7F, 3⟩]
    opcodes := launchOpcodes ++ [⟨[0xFF], .unknown⟩] }

/-- The device at ID 3. -/
def sramSpec : DeviceSpec :=
  { launchSram with
    kinds := launchSram.kinds ++ [(0x30, .compulsory)]
    axrs := [⟨0x10, .storage 0x00FF 0x1200⟩, ⟨0xFF, .unfixed⟩]
    detect := launchSram.detect ++
      [⟨0x10, .memRead, 0xC100, 0xC1FF, 0, 0, []⟩, ⟨0x20, .memRead, 0xC200, 0xC200, 0, 0, []⟩,
       ⟨0x20, .portRead, 0x42, 0x42, 0, 0, []⟩, ⟨0x20, .portWrite, 0x42, 0x42, 0xFF, 0x5A, [⟨0x10, 0xFF00, 0x1200⟩]⟩,
       ⟨0x10, .axrWrite, 0x70, 0x73, 0, 0, []⟩,
       ⟨0x20, .axrWrite, 0x0A, 0x0A, 0xFFFF, 0x4000, []⟩] }

def sram : Device := Device.atReset sramSpec

/-- The bench with the device at ID 3 as given. -/
def benchWith (d : Device) : State :=
  { State.reset with hw := benchHw, devs := State.reset.devs.set 3 (some d) }

def bench : State := benchWith sram

/-- The bench with the flags of one event at ID 3 set. -/
def benchFlags (c : Byte) (f : Word) : State := benchWith (sram.setFlags c f)

/-- The bench in Monitor Mode, every device. -/
def inMonitor (s : State) : State := s.allDevs fun d => { d with mode := .monitor }

/-- Bytes at the start of the mapped boot device, EXT0. -/
def withRom (bs : List Byte) (s : State) : State :=
  { s with mem := bs.zipIdx.foldr (fun p m => Memory.write m (cellOf 6 (BitVec.ofNat 16 p.2)) p.1) s.mem }

/-- The operation answers a next state with the property. -/
def next? (o : Host.Outcome State Fault Refusal) (p : State → Bool) : Bool :=
  match o with
  | .next t => p t
  | .fault _ => false
  | .refused _ => false

/-- The operation is refused for this reason. -/
def refuses (o : Host.Outcome State Fault Refusal) (r : Refusal) : Bool :=
  match o with
  | .refused r' => r' == r
  | .next _ => false
  | .fault _ => false

/-- The operation answers this. -/
def answers (o : Host.Outcome State Fault Refusal) (a : Answer) : Bool := next? o fun t => t.answer == a

/-- The device at an ID has the property. -/
def devHas (s : State) (id : DevId) (p : Device → Bool) : Bool := (s.dev? id).any p

/-- The state has the property `p` and its next operation leads to one with `q`. -/
def leads (s : State) (i : Instr) (q : State → Bool) : Bool := next? (exec i s) q

/-! ## Single steps -/

/-- V10, V13, V14: DIR. -/
theorem test_dir : answers (exec (.axrrdDir 3) bench) (.word 0x0003) && answers (exec (.axrwrDir 3 3) bench) .done &&
    answers (exec (.axrwrDir 3 4) bench) .axrWriteError := by decide +kernel

/-- V15, V18, V19 with T's configuration `$042`: POCR, DSR. -/
theorem test_pocr_dsr : answers (exec (.axrrdPocr 3) bench) (.word 0x0042) &&
    answers (exec (.axrwrPocr 3 0) bench) .axrWriteError && answers (exec (.axrrdDsr 3) bench) (.word 0x0800) &&
    answers (exec (.axrwrDsr 3 0x0900) bench) .axrWriteError := by decide +kernel

/-- R105, R106 with T's DVR `$0003`. -/
theorem test_dmr_dvr : answers (exec (.axrrdDmr 3) bench) (.word 0) && answers (exec (.axrwrDmr 3 1) bench) .axrWriteError &&
    answers (exec (.axrrdDvr 3) bench) (.word 3) && answers (exec (.axrwrDvr 3 3) bench) .done := by decide +kernel

/-- V22: the reserved registers. -/
theorem test_reserved :
    ([Instr.axrrdReserved05 3, .axrrdReserved06 3, .axrrdReserved07 3, .axrrdReserved0B 3].all fun i =>
      answers (exec i bench) (.word 0)) &&
    ([Instr.axrwrReserved05 3 1, .axrwrReserved06 3 1, .axrwrReserved07 3 1, .axrwrReserved0B 3 1].all fun i =>
      answers (exec i bench) .axrWriteError) := by decide +kernel

/-- V26: EHCR takes a code, and discards a write that sets a reserved bit. -/
theorem test_ehcr : leads bench (.axrwrEhcr 3 0x10) (fun t => answers (exec (.axrrdEhcr 3) t) (.word 0x10) &&
      answers (exec (.axrrdEhfr 3) t) (.word 0x0400)) &&
    leads bench (.axrwrEhcr 3 0x0142) (fun t => t.answer == .axrWriteError && devHas t 3 (fun d => d.ehcr == 0)) := by decide +kernel

/-- V31: both silent flags set show in DSR; a reserved bit set discards the write. -/
theorem test_ehfr : leads (benchWith { sram with ehcr := 0x10 }) (.axrwrEhfr 3 0xC700)
      (fun t => devHas t 3 (fun d => d.flags 0x10 == 0xC700) && answers (exec (.axrrdDsr 3) t) (.word 0xC800)) &&
    leads bench (.axrwrEhfr 3 0x0800) (fun t => t.answer == .axrWriteError && t.devs == bench.devs) := by decide +kernel

/-- V30: EMVR takes every bit. -/
theorem test_emvr : leads bench (.axrwrEmvr 3 0xC0FF) (fun t => answers (exec (.axrrdEmvr 3) t) (.word 0xC0FF)) := by decide +kernel

/-- R114 to R117. -/
theorem test_event_record :
    let s := benchWith { sram with decr := 0x20, dear := 0xC200, dedr := 0x005A, defr := 0x0100 }
    answers (exec (.axrrdDecr 3) s) (.word 0x20) && answers (exec (.axrrdDear 3) s) (.word 0xC200) &&
    answers (exec (.axrrdDedr 3) s) (.word 0x5A) && answers (exec (.axrrdDefr 3) s) (.word 0x0100) &&
    answers (exec (.axrwrDecr 3 0x21) s) .axrWriteError && answers (exec (.axrwrDear 3 0xC200) s) .done &&
    answers (exec (.axrwrDedr 3 0) s) .axrWriteError && answers (exec (.axrwrDefr 3 0) s) .axrWriteError := by decide +kernel

/-- R118, R102: storage with writable mask `$00FF` and reset value `$1200`; an unimplemented register. -/
theorem test_devspec : answers (exec (.axrrdDevspec10 3 0x10) bench) (.word 0x1200) &&
    leads bench (.axrwrDevspec10 3 0x10 0x12CD) (fun t => answers (exec (.axrrd 3 0x10) t) (.word 0x12CD)) &&
    answers (exec (.axrwrDevspec10 3 0x10 0x00CD) bench) .axrWriteError && answers (exec (.axrrdDevspec20 3 0x20) bench) (.word 0) &&
    answers (exec (.axrrdDevspec40 3 0x7F) bench) (.word 0) && answers (exec (.axrwrDevspec20 3 0x20 1) bench) .axrWriteError &&
    answers (exec (.axrwrDevspec40 3 0x40 0) bench) .done &&
    answers (exec (.axrrdDevspec80 3 0x80) bench) (.word 0) := by decide +kernel

/-- R118: a register whose behaviour is not fixed reads a free value. -/
theorem test_devspec_unfixed :
    exec (.axrrdDevspec80 3 0xFF) bench = .next ((bench.drawn 1).withAnswer (.word (Config.freeBits 16 0))) := by rfl

/-- R100, R101: the generic operations. -/
theorem test_axr_generic : answers (exec (.axrrd 3 0x03) bench) (.word 3) &&
    leads bench (.axrwr 3 0x0A 0x1234) (fun t => devHas t 3 (fun d => d.emvr == 0x1234)) := by decide +kernel

/-- R141, R151 (log entry 8): an event on one value written to EMVR stops the write, which passes when it is made again; a
protection event on a range of AXR numbers, unsilenced. -/
theorem test_axr_event : leads (benchFlags 0x20 0x0100) (.axrwrEmvr 3 0x4000) (fun t => t.answer == .stopped &&
      t.everyDev Device.susp && devHas t 3 (fun d => d.decr == 0x20 && d.defr == 0x0100 && d.emvr == 0) &&
      leads t .resume (fun u => leads u (.axrwrEmvr 3 0x4000) (fun w => w.answer == .done && devHas w 3 (fun d => d.emvr == 0x4000)))) &&
    leads (benchFlags 0x20 0x0100) (.axrwrEmvr 3 0x4001) (fun t => t.answer == .done && devHas t 3 (fun d => d.emvr == 0x4001)) &&
    leads bench (.axrwr 3 0x73 0) (fun t => t.answer == .stopped && t.everyDev Device.shut) := by decide +kernel

/-- R138, R151 (log entry 8): the same range with the protection event silenced: the write is thrown out. R70, R100: a read
in that range raises no event and changes nothing, whatever the flags. -/
theorem test_axr_prohibited :
    exec (.axrwrDevspec40 3 0x70 1) (benchFlags 0x10 0x8400) = .next ((benchFlags 0x10 0x8400).withAnswer .done) ∧
    exec (.axrrdDevspec40 3 0x70) bench = .next (bench.withAnswer (.word 0x0000)) := ⟨by rfl, by rfl⟩

/-- V52, V53, V54, V55: the read nobody answers, on the two types of bus. -/
theorem test_undriven : answers (exec (.memrd 0xE000) { bench with busLast := 0x11 }) (.byte 0xFF) &&
    answers (exec (.memrd 0xE001) { bench with busLast := 0x21, poc := 0x052 }) (.byte 0x21) &&
    leads { bench with poc := 0x052 } (.memwr 0xE000 0x77) (fun t => answers (exec (.memrd 0xE001) t) (.byte 0x77)) := by decide +kernel

/-- R27: the reserved bits of the configuration are sampled as 0, and the SMS1 Bus bit selects the type of bus, under both
positions of that bit. -/
theorem test_sms1_bit :
    let other := { bench with hw := { benchHw with sms1Bit := .bit3 }, busLast := 0x21 }
    leads bench (.poweron 0xFFF) (fun t => t.poc == 0x3D3) && leads other (.poweron 0xFFF) (fun t => t.poc == 0x3CB) &&
    answers (exec (.memrd 0xE000) { other with poc := 0x04A }) (.byte 0x21) &&
    answers (exec (.memrd 0xE000) { other with poc := 0x052 }) (.byte 0xFF) := by decide +kernel

/-- V58 and R67: ports. -/
theorem test_port : answers (exec (.portrd 0x80) bench) (.byte 0xFF) &&
    leads bench (.portwr 0x43 0x5A) (fun t => t.answer == .done && t.busLast == 0x5A) := by decide +kernel

/-- R62, R69: RAM keeps what is written, ROM does not. -/
theorem test_memwr : leads bench (.memwr 0xC000 0x5A) (fun t => answers (exec (.memrd 0xC000) t) (.byte 0x5A)) &&
    leads bench (.memwr 0xBFFF 0x5A) (fun t => answers (exec (.memrd 0xBFFF) t) (.byte 0x00)) := by decide +kernel

/-- R138, R151: a silenced protection event throws the write out; by default it shuts the system down. -/
theorem test_protection : leads (benchFlags 0x10 0x8400) (.memwr 0xC123 0x5A) (fun t => t.answer == .done && t.mem == [] &&
      t.busLast == 0x5A) &&
    leads bench (.memwr 0xC123 0x5A) (fun t => t.answer == .stopped && t.mem == [] && t.everyDev Device.shut &&
      devHas t 3 (fun d => d.decr == 0x10 && d.dear == 0xC123)) := by decide +kernel

/-- The bench with the whole address space writable at ID 3. -/
def flat : State := { bench with hw := { benchHw with memMap := [⟨0x0000, 0xFFFF, .device 3, .ram⟩] } }

/-- R60, R68: the word `$1234` lies low byte first, also across the end of the address space. -/
theorem test_word : (match flat.memWriteWord 0xFFFF 0x1234 with
    | .done _ t => Memory.byte t.mem (cellOf 3 0xFFFF) == 0x34 && Memory.byte t.mem (cellOf 3 0x0000) == 0x12
    | _ => false) = true := by decide +kernel

/-- V96: an event on the second byte of a word finds the first one stored. -/
theorem test_word_second_byte : (match (benchFlags 0x10 0x0100).memWriteWord 0xC0FF 0x1234 with
    | .stopped t => Memory.byte t.mem (cellOf 3 0xC0FF) == 0x34 && Memory.byte t.mem (cellOf 3 0xC100) == 0x00 &&
        t.everyDev Device.susp && devHas t 3 (fun d => d.decr == 0x10 && d.dear == 0xC100)
    | _ => false) = true := by decide +kernel

/-- R126: CLEARSILENTFLAGS in each mode. -/
theorem test_clearsilentflags :
    leads (benchFlags 0x20 0xC100) .sysmsgClearsilentflags (fun t => devHas t 3 (fun d => d.flags 0x20 == 0x0100)) &&
    leads (inMonitor (benchFlags 0x20 0xC100)) .sysmsgClearsilentflags (fun t => devHas t 3 (fun d => d.flags 0x20 == 0x8100)) := by decide +kernel

/-- R146, R150: a breakpoint suspends and silences itself; R148: by default a protection event shuts down. -/
theorem test_event : leads (benchFlags 0x20 0x0100) (.event 3 0x20 0xC200 0x005A) (fun t => t.answer == .event .stopped &&
      t.everyDev Device.susp && devHas t 3 (fun d => d.decr == 0x20 && d.dear == 0xC200 && d.dedr == 0x005A &&
        d.defr == 0x0100 && d.flags 0x20 == 0x8100)) &&
    leads bench (.event 3 0x10 0 0) (fun t => t.everyDev Device.shut && devHas t 3 (fun d => d.flags 0x10 == 0x0400)) := by decide +kernel

/-- R147: Monitor Mode with suspension: the pc takes EMVR, nothing is saved. -/
theorem test_monitor : leads (benchWith { sram.setFlags 0x20 0x0300 with emvr := 0x4000 }) (.event 3 0x20 0xC200 0)
    (fun t => t.core.pc == 0x4000 && t.everyDev (fun d => d.susp && d.mode == .monitor && !d.shut)) := by decide +kernel

/-- The bench about to execute G11's `LD ($C000), A` with A `$5A`, the flags of one event at ID 3 set. -/
def benchStore (f : Word) : State :=
  withRom [0x32, 0x00, 0xC0] { benchFlags 0x21 f with core := { Core.atReset with a := 0x5A } }

/-- R92 step 4, R99: what the store of a completed instruction left stays, in memory and on the bus, the private state is the
new one, and the silent flag is cleared. -/
theorem test_procstep_store : leads (benchStore 0x8000) .procstep (fun t => t.answer == .completed && t.core.pc == 3 &&
      t.core.a == 0x5A && t.mem.byte (cellOf 3 0xC000) == 0x5A && t.busLast == 0x5A &&
      devHas t 3 (fun d => d.flags 0x21 == 0x0000)) := by decide +kernel

/-- R92 with G11's `LD A, n` as in program P2; R95: an opcode the core does not know. -/
theorem test_procstep : leads (withRom [0x3E, 0x5A] bench) .procstep (fun t => t.core.a == 0x5A && t.core.pc == 2 &&
      t.answer == .completed) &&
    leads (withRom [0xED, 0x00] bench) .procstep (fun t => t.answer == .stopped && t.core.pc == 0 && t.everyDev Device.shut &&
      devHas t 0 (fun d => d.decr == 1)) := by decide +kernel

/-- R93: HL. -/
theorem test_ld_hl : leads bench (.ldHlNn 0xC0FF) (fun t => t.core.h == 0xC0 && t.core.l == 0xFF && t.core.pc == 3) &&
    leads (withRom [0x21, 0xFF, 0xC0] bench) .procstep (fun t => t.core.h == 0xC0 && t.core.l == 0xFF && t.core.pc == 3) := by decide +kernel

/-- R94, G5: `$E6 AND $0F` is `$06`, whose two set bits make even parity. -/
theorem test_and : leads { bench with core := { Core.atReset with a := 0xE6, b := 0x0F, f := 0xFF } } .andAB
    (fun t => t.core.a == 0x06 && t.core.pc == 1) := by decide +kernel

theorem test_and_flags : (∀ u : Byte, andFlags 0x06 u &&& 0xD7#8 = 0x14#8) ∧ (∀ u : Byte, andFlags 0x00 u &&& 0xD7#8 = 0x54#8) ∧
    ∀ u : Byte, andFlags 0x80 u &&& 0xD7#8 = 0x90#8 := by decide +kernel

/-- R127: a completed instruction clears the silent flags. -/
theorem test_instruction_clears : leads (withRom [0x00] (benchFlags 0x20 0x8100)) .procstep
    (fun t => t.core.pc == 1 && devHas t 3 (fun d => d.flags 0x20 == 0x0100)) := by decide +kernel

/-- R181, R184: Power-On into Monitor Mode, suspended. -/
theorem test_poweron : leads bench (.poweron 0x342) (fun t => t.everyDev (fun d => d.mode == .monitor && d.susp && !d.shut) &&
    t.core.pc == 0 && t.poc == 0x342 && t.bootMap == 2) := by decide +kernel

/-- R135: RESUME of a suspended system, and of one that is not. -/
theorem test_resume : leads bench.suspendAll .resume (fun t => t.everyDev (fun d => !d.susp) && t.answer == .done) &&
    answers (exec .resume bench) .notEnabled := by decide +kernel

/-- The table's word of an AXR row runs as the first operation after reset. -/
theorem test_first_step : next? (step (State.reset.withFetchWord 8 0x08)) (fun t => t.answer == .word 0 && t.pending == []) := by decide +kernel

/-! ## Witnesses: for each obligation with hypotheses, a state and operands that meet them -/

theorem exists_next {o : Host.Outcome State Fault Refusal} {p : State → Bool} (h : next? o p = true) :
    ∃ t, o = .next t ∧ p t = true := by
  cases o with
  | next t => exact ⟨t, rfl, h⟩
  | fault r => cases h
  | refused r => cases h

/-- The bench with an operation of the host pending. -/
def pend (i : Instr) (s : State) : State := s.withPending (encode i)

/-- A machine whose devices are all in Shutdown. -/
def dead : State := bench.shutdownAll

/-- The device at ID 3 disabled. -/
def disabled : State := benchWith { sram with enab := false }

theorem witness_decodeEncodeRoundTrip :
    (Instr.axrwrDevspec80 15 0xFF 0xFFFF).wf ∧ (Instr.poweron 0x3DB).wf ∧ (Instr.event 15 0xFF 0xFFFF 0xFFFF).wf := by decide

theorem witness_decodeAcceptsOnlyEncodings :
    decode [0xFF, 1, 15, 0, 0, 0, 0xFF, 0xFF, 0x21] = .ok (.axrwrDevspec80 15 0xFF 0xFFFF, [0x21]) := by rfl

theorem witness_stepRunsTheDecodedOperation :
    bench.pending = [] ∧ decode (pend (.memrd 0xC000) bench).pending = .ok (.memrd 0xC000, []) ∧
    decode (bench.withPending [0x21]).pending = .error .truncated ∧ (bench.withPending [0x21]).pending ≠ [] :=
  ⟨rfl, rfl, rfl, by decide⟩

/-- A device, and a code of each kind, of the machine after reset. -/
theorem witness_resetState :
    State.reset.dev? 3#4 = some (Device.atReset launchSram) ∧ eventKind launchSram.kinds 0x10 = some .protection ∧
    eventKind launchSram.kinds 0x20 = some .breakpoint ∧ State.reset.dev? 0#4 = some (Device.atReset launchProc) ∧
    eventKind launchProc.kinds 0x01 = some .compulsory := by decide +kernel

theorem bench_sram : bench.dev? 3#4 = some sram := by decide +kernel

/-- Power-On passes POST; a configuration that starts in Monitor Mode suspended, and one that does not. -/
theorem witness_powerOn :
    bench.postPassed ∧ bench.dev? 3#4 = some sram ∧ (0x342#12).getLsbD 9 ∧ (0x342#12).getLsbD 8 ∧ !(0x042#12).getLsbD 9 ∧
    eventKind sram.spec.kinds 0x30 = some .compulsory ∧ eventKind sram.spec.kinds 0x10 = some .protection ∧
    eventKind sram.spec.kinds 0x20 = some .breakpoint ∧ eventKind sram.spec.kinds 0xFF = none := by decide +kernel

/-- A configuration for each Boot Device code, and a boot region, at its first and last address. -/
theorem witness_powerOnRegistersAndBoot :
    [0x040#12, 0x041#12, 0x042#12, 0x043#12].map (fun c => c.extractLsb' 0 2) = [0b00#2, 0b01#2, 0b10#2, 0b11#2] ∧
    ([0x0000#16, 0xBFFF#16].all fun a => ((bench.hw.memMap.find? fun r => inRange r.lo r.hi a).map fun r => r.target) == some .boot) ∧
    leads bench (.poweron 0x041) (fun t => t.bootMap == 0b01 && t.hw.cardId == 5) := by decide +kernel

theorem witness_powerOnRefusesFailedPost :
    (benchWith { sram with spec := { sramSpec with postCode := 1 } }).dev? 3#4 =
      some { sram with spec := { sramSpec with postCode := 1 } } ∧ (1#4) ≠ 0#4 := by decide +kernel

theorem witness_stepKeepsInvariant :
    ∃ t, step (pend (.event 3 0x20 0xC200 0x5A) (benchFlags 0x20 0x0100)) = .next t ∧
      (pend (.event 3 0x20 0xC200 0x5A) (benchFlags 0x20 0x0100)).wf = true := by
  obtain ⟨t, h, -⟩ := exists_next (o := step (pend (.event 3 0x20 0xC200 0x5A) (benchFlags 0x20 0x0100)))
    (p := fun _ => true) (by decide +kernel)
  exact ⟨t, h, by decide +kernel⟩

/-- A step in Monitor Mode that stays there, and a Power-On that leaves it. -/
theorem witness_onlyPowerOnLeavesMonitorMode :
    devHas (inMonitor bench) 3 (fun d => d.mode == .monitor) ∧
    (∃ t, step (inMonitor bench) = .next t ∧ devHas t 3 (fun d => d.mode == .monitor) = true) ∧
    (∃ t, step (pend (.poweron 0x042) (inMonitor bench)) = .next t ∧ devHas t 3 (fun d => d.mode == .compatible) = true) ∧
    decode (pend (.poweron 0x042) (inMonitor bench)).pending = .ok (.poweron 0x042, []) :=
  ⟨by decide +kernel, exists_next (by decide +kernel), exists_next (by decide +kernel), rfl⟩

theorem witness_onlyPowerOnLeavesShutdown :
    devHas dead 3 Device.shut ∧ (∃ t, step dead = .next t ∧ devHas t 3 Device.shut = true) ∧
    (∃ t, step (pend (.poweron 0x042) dead) = .next t ∧ devHas t 3 (fun d => !d.shut) = true) :=
  ⟨by decide +kernel, exists_next (by decide +kernel), exists_next (by decide +kernel)⟩

theorem witness_onlyResumeOrPowerOnEndsSuspension :
    devHas bench.suspendAll 3 (fun d => d.susp && !d.shut) ∧
    (∃ t, step bench.suspendAll = .next t ∧ devHas t 3 Device.susp = true) ∧
    (∃ t, step (pend .resume bench.suspendAll) = .next t ∧ devHas t 3 (fun d => !d.susp) = true) ∧
    (∃ t, step (pend (.poweron 0x042) bench.suspendAll) = .next t ∧ devHas t 3 (fun d => !d.susp) = true) :=
  ⟨by decide +kernel, exists_next (by decide +kernel), exists_next (by decide +kernel), exists_next (by decide +kernel)⟩

/-- A step that is no Power-On and in which no event triggers. -/
theorem witness_eventRecordRetained :
    (∃ t, step (pend (.memwr 0xC000 0x5A) bench) = .next t ∧
      (t.answer != .stopped && t.answer != .event .stopped) = true) ∧
    (∀ cfg rest, decode (pend (.memwr 0xC000 0x5A) bench).pending ≠ .ok (.poweron cfg, rest)) ∧
    (pend (.memwr 0xC000 0x5A) bench).dev? 3#4 = some sram := by
  refine ⟨exists_next (by decide +kernel), fun cfg rest h => ?_, by decide +kernel⟩
  have h' : decode (pend (.memwr 0xC000 0x5A) bench).pending = .ok (.memwr 0xC000 0x5A, []) := rfl
  rw [h'] at h
  cases h

theorem witness_configurationNeverChanges : ∃ t, step bench = .next t ∧ (t.core.pc == 1) = true :=
  exists_next (by decide +kernel)

/-- A device that answers and is sound, whose events let every write to a pre-defined register be carried out, with fixed
device-specific status bits; one where they are not fixed; one where an event stops or prohibits a write. -/
theorem witness_registers :
    bench.answering 3#4 = some sram ∧ sram.wf ∧ sram.spec.dsrSpecific = some 0 ∧
    ((List.range 16).all fun n =>
      [0x0000#16, 0x0002#16, 0x00FF#16, 0x4000#16, 0xC700#16, 0xFFFF#16].all fun v =>
        sram.carriesOut (.axrWrite (BitVec.ofNat 8 n) v)) ∧
    (sram.setFlags 0x20 0x0100).carriesOut (.axrWrite 0x0A 0x4000) = false ∧
    (sram.setFlags 0x10 0x8400).carriesOut (.axrWrite 0x70 1) = false ∧
    (benchWith { sram with spec := { sramSpec with dsrSpecific := none } }).answering 3#4 =
      some { sram with spec := { sramSpec with dsrSpecific := none } } := by decide +kernel

/-- EHCR: a code and a value outside it; EHFR: defined bits and a reserved one, at the edges of the masks. -/
theorem witness_ehcr_ehfr :
    (0x00FF#16).extractLsb' 8 8 = 0#8 ∧ (0x0100#16).extractLsb' 8 8 ≠ 0#8 ∧ 0xC700#16 &&& 0x38FF#16 = 0x0000#16 ∧
    0x0001#16 &&& 0x38FF#16 ≠ 0x0000#16 ∧ 0x2000#16 &&& 0x38FF#16 ≠ 0x0000#16 := by decide

/-- Device-specific registers of each sort, and a write of each outcome to the one with storage. -/
theorem witness_deviceSpecificRegisters :
    bench.answering 3#4 = some sram ∧ devAxrKind sram.spec.axrs 0x11 = none ∧
    ([0x11#8, 0x10#8, 0xFF#8].all fun n => sram.carriesOut (.axrWrite n 0x12CD) &&
      sram.carriesOut (.axrWrite n 0x13CD)) ∧
    devAxrKind sram.spec.axrs 0x10 = some (.storage 0x00FF 0x1200) ∧ devAxrKind sram.spec.axrs 0xFF = some .unfixed ∧
    (0x12CD#16 ^^^ sram.devAxr.get 16) &&& ~~~0x00FF#16 = 0#16 ∧ (0x13CD#16 ^^^ sram.devAxr.get 16) &&& ~~~0x00FF#16 ≠ 0#16 := by
  decide +kernel

/-- An ID no device holds, a device in Shutdown, a disabled one; a generic operation and one by its row. -/
theorem witness_unansweredAxr :
    (∀ d, bench.dev? 9#4 = some d → d.enab = false ∨ d.shut = true) ∧
    (∀ d, dead.dev? 3#4 = some d → d.enab = false ∨ d.shut = true) ∧ (dead.dev? 3#4).isSome ∧
    (∀ d, disabled.dev? 3#4 = some d → d.enab = false ∨ d.shut = true) ∧ (disabled.dev? 3#4).isSome ∧
    ReadsAxr (.axrrdDevspec80 9 0x80) 9 0x80 ∧ WritesAxr (.axrwr 9 0x0A 1) 9 0x0A 1 := by
  have h1 : bench.dev? 9#4 = none := by decide +kernel
  have h2 : dead.dev? 3#4 = some { sram with shut := true } := by decide +kernel
  have h3 : disabled.dev? 3#4 = some { sram with enab := false } := by decide +kernel
  refine ⟨fun d h => ?_, fun d h => ?_, by rw [h2]; rfl, fun d h => ?_, by rw [h3]; rfl, .inr ⟨_, rfl, rfl⟩, .inl rfl⟩
  · rw [h1] at h; cases h
  · rw [h2] at h; cases h; exact .inr rfl
  · rw [h3] at h; cases h; exact .inl rfl

/-- Each register's discard rule, at the first and the last pre-defined register, accepted and discarded. -/
theorem witness_writeCheckedDiscards :
    bench.answering 3#4 = some sram ∧ (0x00#8).toNat < 16 ∧ (0x0F#8).toNat < 16 ∧ sram.spec.dsrSpecific ≠ none ∧
    ([(0x00#8, 3#16), (0x04#8, 0x0800#16), (0x04#8, 0#16), (0x0F#8, 0#16), (0x0F#8, 1#16)].all fun p =>
      sram.carriesOut (.axrWrite p.1 p.2)) ∧
    answers (exec (.axrwr 3 0x0F 0) bench) .done ∧ answers (exec (.axrwr 3 0x0F 1) bench) .axrWriteError ∧
    answers (exec (.axrwr 3 0x04 0x0800) bench) .done ∧ answers (exec (.axrwr 3 0x04 0) bench) .axrWriteError := by decide +kernel

theorem witness_axrFrame :
    (∃ t, exec (.axrwrEhfr 3 0x0100) bench = .next t ∧ (t.answer == .done) = true) ∧ Answer.done ≠ Answer.stopped ∧
    WritesAxr (.axrwrEhfr 3 0x0100) 3 0x09 0x0100 ∧ bench.dev? 3#4 = some sram ∧
    (∃ t, exec (.axrrdDir 3) bench = .next t ∧ (t.answer == .word 3) = true) ∧ ReadsAxr (.axrrdDir 3) 3 0x00 :=
  ⟨exists_next (by decide +kernel), by decide, .inr ⟨_, rfl, rfl⟩, by decide +kernel, exists_next (by decide +kernel),
    .inr ⟨_, rfl, rfl⟩⟩

/-- The two writes of the procedure, for the first and the last event code. -/
theorem witness_programEventHandling :
    bench.answering 3#4 = some sram ∧ sram.wf ∧ 0xC700#16 &&& 0x38FF#16 = 0x0000#16 ∧
    sram.carriesOut (.axrWrite 0x08 (0#8 ++ 0x00#8)) ∧ sram.carriesOut (.axrWrite 0x08 (0#8 ++ 0xFF#8)) ∧
    sram.carriesOut (.axrWrite 0x09 0xC700) := by decide +kernel

/-- Writable, read-only and open regions that pass, one that a silenced protection event prohibits, nobody. -/
theorem witness_memoryTransactions :
    bench.storedByte 0xC000 = some 0 ∧ bench.storedByte 0xBFFF = some 0 ∧
    bench.memTarget 0xF000 = some (3, sram, .unfixed) ∧ (sram.detects (.memRead 0xF000)).all sram.passes ∧
    bench.storedByte 0xF000 = none ∧ bench.memTarget 0xE000 = none ∧ bench.portTarget 0x80 = none ∧
    (benchFlags 0x10 0x8400).memTarget 0xC100 = some (3, sram.setFlags 0x10 0x8400, .ram) ∧
    ((sram.setFlags 0x10 0x8400).detects (.memRead 0xC100)).all (sram.setFlags 0x10 0x8400).passes ∧
    (benchFlags 0x10 0x8400).storedByte 0xC100 = none := by decide +kernel

theorem witness_busLatch :
    (∃ t, exec (.memrd 0xC000) bench = .next t ∧ (t.answer == .byte 0) = true) ∧ bench.memTarget 0xC000 ≠ none ∧
    (∃ t, exec (.memwr 0xC200 0x5A) (benchFlags 0x20 0x0100) = .next t ∧ (t.answer == .stopped && t.busLast == 0x5A) = true) ∧
    (∃ t, exec (.portwr 0x42 0x5A) bench = .next t ∧ (t.answer == .done) = true) ∧
    exec (.portrd 0x43) bench = .next (((bench.withBus (Config.freeBits 8 0)).drawn 1).withAnswer (.byte (Config.freeBits 8 0))) ∧
    bench.portTarget 0x43 ≠ none ∧
    (∃ t, exec (.memrd 0xC200) (benchFlags 0x20 0x0100) = .next t ∧ (t.answer == .stopped && t.busLast == 0xFF) = true) ∧
    (∃ t, exec (.portrd 0x42) (benchFlags 0x20 0x0100) = .next t ∧ (t.answer == .stopped && t.busLast == 0xFF) = true) ∧
    (∃ t, exec (.axrwrEmvr 3 0x4000) bench = .next t ∧ (t.answer == .done && t.busLast == 0xFF) = true) :=
  ⟨exists_next (by decide +kernel), by decide +kernel, exists_next (by decide +kernel), exists_next (by decide +kernel), rfl,
    by decide +kernel, exists_next (by decide +kernel), exists_next (by decide +kernel), exists_next (by decide +kernel)⟩

/-- A write that is stored, writes thrown out by a protection event, by ROM and by an open region. -/
theorem witness_memWrites :
    bench.memTarget 0xC000 = some (3, sram, .ram) ∧ (sram.detects (.memWrite 0xC000 1)).all sram.passes ∧
    sram.protects (sram.detects (.memWrite 0xC000 1)) = false ∧
    (benchFlags 0x10 0x8400).memTarget 0xC1FF = some (3, sram.setFlags 0x10 0x8400, .ram) ∧
    ((sram.setFlags 0x10 0x8400).detects (.memWrite 0xC1FF 1)).all (sram.setFlags 0x10 0x8400).passes ∧
    (sram.setFlags 0x10 0x8400).protects ((sram.setFlags 0x10 0x8400).detects (.memWrite 0xC1FF 1)) ∧
    (bench.memTarget 0x0000).map (fun p => p.2.2) = some .rom ∧ (bench.memTarget 0xF0FF).map (fun p => p.2.2) = some .unfixed := by
  decide +kernel

theorem witness_ports :
    bench.portTarget 0x40 = some (3, sram) ∧ (sram.detects (.portRead 0x40)).all sram.passes ∧
    bench.portTarget 0x7F = some (3, sram) ∧ (sram.detects (.portWrite 0x7F 1)).all sram.passes := by decide +kernel

/-- Addresses where a write is read back, and others: neighbours at the edge of the writable region. -/
theorem witness_memReadAfterWrite :
    bench.memTarget 0xDFFF = some (3, sram, .ram) ∧ (sram.detects (.memWrite 0xDFFF 1)).all sram.passes ∧
    sram.protects (sram.detects (.memWrite 0xDFFF 1)) = false ∧ bench.storedByte 0xDFFF = some 0 ∧
    bench.storedByte 0xDFFE = some 0 ∧ (0xDFFE#16) ≠ 0xDFFF#16 := by decide +kernel

/-- A word across the end of the address space, one at an odd address, and one whose second byte an event stops or
refuses. -/
theorem witness_wordAccess :
    flat.memTarget 0xFFFF = some (3, sram, .ram) ∧ flat.memTarget (0xFFFF + 1) = some (3, sram, .ram) ∧
    (∀ b, sram.carriesOut (.memWrite 0xFFFF b) ∧ sram.carriesOut (.memWrite (0xFFFF + 1) b)) ∧
    sram.carriesOut (.memRead 0xFFFF) ∧ sram.carriesOut (.memRead (0xFFFF + 1)) ∧
    bench.memTarget 0xC0FD = some (3, sram, .ram) ∧ bench.memTarget (0xC0FD + 1) = some (3, sram, .ram) ∧
    bench.memTarget 0xC0FF = some (3, sram, .ram) ∧ bench.memTarget (0xC0FF + 1) = some (3, sram, .ram) ∧
    sram.carriesOut (.memWrite 0xC0FF 0x34) ∧ (sram.detects (.memWrite (0xC0FF + 1) 0x12)).all sram.passes = false := by
  decide +kernel

/-- Each type of transaction that a device answers. -/
theorem witness_issues :
    Issues bench (.memrd 0xC000) 3 sram (.memRead 0xC000) ∧ Issues bench (.memwr 0xC000 1) 3 sram (.memWrite 0xC000 1) ∧
    Issues bench (.portrd 0x42) 3 sram (.portRead 0x42) ∧ Issues bench (.portwr 0x42 0x5A) 3 sram (.portWrite 0x42 0x5A) ∧
    Issues bench (.axrwrEmvr 3 0x4000) 3 sram (.axrWrite 0x0A 0x4000) :=
  ⟨.memRead (st := .ram) (by decide +kernel), .memWrite (st := .ram) (by decide +kernel), .portRead (by decide +kernel),
    .portWrite (by decide +kernel), .axrWrite (.inr ⟨_, rfl, rfl⟩) (by decide +kernel)⟩

/-- Codes that pass, that stop each type of transaction, and that refuse one; actions that are prohibited. -/
theorem witness_actionAfterEvents :
    let s := benchFlags 0x20 0x0100
    ([Tx.memRead 0xC200, .memWrite 0xC200 1, .portRead 0x42, .portWrite 0x42 0x5A, .axrWrite 0x0A 0x4000].all
      fun tx => (sram.detects tx).all sram.passes && sram.detects tx == [0x20] &&
        ((sram.setFlags 0x20 0x0100).detects tx).any fun c => !(sram.setFlags 0x20 0x0100).passes c) ∧
    ([Instr.memrd 0xC200, .memwr 0xC200 1, .portrd 0x42, .portwr 0x42 0x5A, .axrwr 3 0x0A 0x4000,
      .axrwrEmvr 3 0x4000].all fun i => answers (exec i s) .stopped) ∧
    ReadsAxr (.axrrdDedr 3) 3 0x0E ∧
    answers (exec (.memwr 0xC100 1) (benchFlags 0x10 0x8400)) .done ∧ answers (exec (.memwr 0xC200 1) bench) .done ∧
    answers (exec (.memrd 0xC200) bench) (.byte 0) ∧
    refuses (exec (.axrwrEmvr 3 0x4000) (inMonitor (benchFlags 0x20 0x0200))) .monitorModeReentry ∧
    (sram.setFlags 0x10 0x8400).protects ((sram.setFlags 0x10 0x8400).detects (.axrWrite 0x70 1)) := by
  refine ⟨?_, ?_, .inr ⟨_, rfl, rfl⟩, ?_⟩ <;> decide +kernel

theorem witness_transactionFrame :
    (∃ t, exec (.memwr 0xC000 1) bench = .next t ∧ (t.answer != .stopped) = true) ∧
    (∃ t, exec (.portwr 0x40 1) bench = .next t ∧ (t.answer != .stopped) = true) ∧
    (∃ t, exec (.memrd 0x0000) bench = .next t ∧ (t.answer != .stopped) = true) ∧
    (∃ t, exec (.portrd 0x80) bench = .next t ∧ (t.answer != .stopped) = true) :=
  ⟨exists_next (by decide +kernel), exists_next (by decide +kernel), exists_next (by decide +kernel), exists_next (by decide +kernel)⟩

/-- Stopped transactions of each type. -/
theorem witness_stoppedTransactionFrame :
    IsTransaction (.memwr 0xC200 1) ∧ (∃ t, exec (.memwr 0xC200 1) (benchFlags 0x20 0x0100) = .next t ∧ (t.answer == .stopped) = true) ∧
    IsTransaction (.portrd 0x42) ∧ (∃ t, exec (.portrd 0x42) (benchFlags 0x20 0x0100) = .next t ∧ (t.answer == .stopped) = true) ∧
    IsTransaction (.axrwrEmvr 3 0x4000) ∧ (∃ t, exec (.axrwrEmvr 3 0x4000) (benchFlags 0x20 0x0100) = .next t ∧ (t.answer == .stopped) = true) :=
  ⟨.memWrite _ _, exists_next (by decide +kernel), .portRead _, exists_next (by decide +kernel),
    .axrWrite (id := 3) (n := 0x0A) (v := 0x4000) (.inr ⟨_, rfl, rfl⟩), exists_next (by decide +kernel)⟩

/-- Events silenced in each mode, one silenced in the other mode only, one that cannot be silenced. -/
theorem witness_eventSilenced :
    answers (exec (.event 3 0x20 0 0) (benchFlags 0x20 0x8100)) (.event .silenced) ∧
    answers (exec (.event 3 0x20 0 0) (inMonitor (benchFlags 0x20 0x4100))) (.event .silenced) ∧
    answers (exec (.event 3 0x20 0 0) (benchFlags 0x20 0x4100)) (.event .stopped) ∧
    answers (exec (.event 3 0x30 0 0) (benchFlags 0x30 0xC400)) (.event .stopped) ∧
    (benchFlags 0x20 0x8100).dev? 3#4 = some (sram.setFlags 0x20 0x8100) ∧
    eventKind (sram.setFlags 0x20 0x8100).spec.kinds 0x20 = some .breakpoint := by decide +kernel

/-- An unsilenced event without a mechanism, of each kind. -/
theorem witness_eventWithoutMechanism :
    silenced .breakpoint .compatible (sram.flags 0x20) = false ∧ sram.flags 0x20 &&& 0x0700#16 = 0x0000#16 ∧
    silenced .compulsory .compatible ((sram.setFlags 0x30 0xC000).flags 0x30) = false ∧
    answers (exec (.event 3 0x20 0 0) bench) (.event .ignored) ∧
    answers (exec (.event 3 0x10 0 0) (benchFlags 0x10 0x4000)) (.event .ignored) ∧
    refuses (exec (.event 3 0x30 0 0) (benchFlags 0x30 0xC000)) .compulsoryEventUnhandled := by decide +kernel

/-- Each mechanism, and each refusal of Monitor Mode. -/
theorem witness_eventMechanisms :
    refuses (exec (.event 3 0x20 0 0) { benchFlags 0x20 0x0200 with hw := { benchHw with monitorPresent := false } })
      .monitorModeAbsent ∧
    refuses (exec (.event 3 0x20 0 0) (inMonitor (benchFlags 0x20 0x0200))) .monitorModeReentry ∧
    leads (benchFlags 0x20 0x0700) (.event 3 0x20 0 0) (fun t => t.everyDev fun d => d.mode == .monitor && d.susp && !d.shut) ∧
    leads (benchFlags 0x20 0x0600) (.event 3 0x20 0 0) (fun t => t.everyDev fun d => d.mode == .monitor && !d.susp && !d.shut) ∧
    leads (benchFlags 0x20 0x0500) (.event 3 0x20 0 0) (fun t => t.everyDev fun d => d.mode == .compatible && d.susp && !d.shut) ∧
    leads (benchFlags 0x20 0x0400) (.event 3 0x20 0 0) (fun t => t.everyDev fun d => d.mode == .compatible && !d.susp && d.shut) ∧
    silenced .breakpoint .compatible ((sram.setFlags 0x20 0x0700).flags 0x20) = false := by decide +kernel

/-- A trigger by each type of transaction. -/
theorem witness_eventRecordsTrigger :
    let s := benchFlags 0x20 0x0100
    answers (exec (.event 3 0x20 0xC200 0x5A) s) (.event .stopped) ∧ answers (exec (.memwr 0xC200 0x5A) s) .stopped ∧
    answers (exec (.memrd 0xC200) s) .stopped ∧ s.portTarget 0x42 = some (3, sram.setFlags 0x20 0x0100) ∧
    answers (exec (.portwr 0x42 0x5A) s) .stopped ∧ answers (exec (.portrd 0x42) s) .stopped := by decide +kernel

/-- A breakpoint that triggers, is silenced when it occurs again, and leaves the other entries. -/
theorem witness_breakpointSilencesItself :
    leads (benchFlags 0x20 0x0100) (.event 3 0x20 0 0) (fun t => t.answer == .event .stopped &&
      devHas t 3 (fun d => d.flags 0x20 == 0x8100 && d.flags 0x10 == 0x0400) &&
      answers (exec (.event 3 0x20 0 0) t) (.event .silenced)) ∧
    leads { benchFlags 0x20 0x0100 with hw := { benchHw with bpSilence := .both } } (.event 3 0x20 0 0)
      (fun t => devHas t 3 (fun d => d.flags 0x20 == 0xC100)) := by decide +kernel

theorem witness_undefinedEvent : bench.dev? 3#4 = some sram ∧ eventKind sram.spec.kinds 0x00 = none ∧
    eventKind sram.spec.kinds 0xFF = none := by decide +kernel

/-- A compulsory event with Shutdown alone, and with Suspend, its silent flags set. -/
theorem witness_compulsoryAlwaysTriggers :
    eventKind sram.spec.kinds 0x30 = some .compulsory ∧ (sram.flags 0x30).getLsbD 9 = false ∧ (sram.flags 0x30).getLsbD 10 ∧
    ((sram.setFlags 0x30 0xC100).flags 0x30).getLsbD 9 = false ∧ ((sram.setFlags 0x30 0xC100).flags 0x30).getLsbD 8 := by
  decide +kernel

theorem witness_clearSilentFlags : bench.everyDev Device.wf ∧ (inMonitor (benchFlags 0x20 0xC100)).everyDev Device.wf := by
  decide +kernel

theorem witness_resume :
    (∀ d, some d ∈ bench.suspendAll.devs → d.susp = true ∧ d.shut = false) ∧
    (∃ d, some d ∈ bench.devs ∧ (d.susp = false ∨ d.shut = true)) := by
  refine ⟨fun d hd => ?_, sram, by decide +kernel, .inl rfl⟩
  have h := (State.everyDev_iff bench.suspendAll fun d => d.susp && !d.shut).1 (by decide +kernel) d hd
  simpa using h

theorem witness_shutdownSystemIsDead :
    (∀ d, some d ∈ dead.devs → d.shut = true) ∧
    (∃ t, exec (.memwr 0xC000 0x5A) dead = .next t ∧ (t.answer == .done) = true) ∧
    (∃ t, exec .procstep dead = .next t ∧ (t.answer == .notEnabled) = true) ∧
    (∃ t, exec .resume dead = .next t ∧ (t.answer == .notEnabled) = true) ∧
    (∃ t, exec (.axrwrEmvr 3 1) dead = .next t ∧ devHas t 3 (fun d => d.emvr == 0) = true) ∧
    (∃ t, exec .sysmsgClearsilentflags (benchFlags 0x20 0x8100).shutdownAll = .next t ∧
      devHas t 3 (fun d => d.flags 0x20 == 0x0100) = true) :=
  ⟨(State.everyDev_iff dead Device.shut).1 (by decide +kernel), exists_next (by decide +kernel), exists_next (by decide +kernel),
    exists_next (by decide +kernel), exists_next (by decide +kernel), exists_next (by decide +kernel)⟩

theorem witness_stoppedProc :
    (bench.suspendAll.dev? bench.suspendAll.hw.procId).any Device.susp ∧ (dead.dev? dead.hw.procId).any Device.shut := by
  decide +kernel

/-- A running PROC whose fetches are performed, at the start of memory and across its end. -/
theorem witness_procRuns :
    bench.runningProc.isSome ∧ bench.readsThrough bench.core.pc ∧ bench.readsThrough (bench.core.pc + 1) ∧
    bench.readsThrough (bench.core.pc + 2) ∧ (bench.withPc 0xFFFF).readsThrough 0xFFFF ∧ (bench.withPc 0xFFFF).runningProc.isSome := by
  decide +kernel

theorem witness_procstepExecutesStoredInstruction :
    (withRom [0x21, 0xFF, 0xC0] bench).storedByte 0 = some 0x21 ∧ (withRom [0x21, 0xFF, 0xC0] bench).storedByte 1 = some 0xFF ∧
    (withRom [0x21, 0xFF, 0xC0] bench).storedByte 2 = some 0xC0 ∧ (withRom [0x21, 0xFF, 0xC0] bench).runningProc.isSome ∧
    (benchHw.opcodes.find? fun r => r.bytes == [0x21]) = some ⟨[0x21], .ldHlNn⟩ ∧
    (withRom [0xA0] bench).storedByte 0 = some 0xA0 ∧
    (benchHw.opcodes.find? fun r => r.bytes == [0xA0]) = some ⟨[0xA0], .andAB⟩ := by decide +kernel

/-- The other rows of the table, the store at both ends of the writable region, with and without a silent flag set. -/
theorem witness_procstepOtherRows :
    ([(0x00#8, CoreOp.nop), (0x06, .ldBn), (0x32, .ldNnA), (0x3E, .ldAn)].all fun p =>
      (benchHw.opcodes.find? fun r => r.bytes == [p.1]) == some ⟨[p.1], p.2⟩ &&
      (withRom [p.1, 0xFF, 0xDF] bench).storedByte 0 == some p.1 && (withRom [p.1, 0xFF, 0xDF] bench).storedByte 1 == some 0xFF &&
      (withRom [p.1, 0xFF, 0xDF] bench).storedByte 2 == some 0xDF && (withRom [p.1, 0xFF, 0xDF] bench).runningProc.isSome) ∧
    bench.memTarget (0xDF#8 ++ 0xFF#8) = some (3, sram, .ram) ∧ sram.carriesOut (.memWrite (0xDF#8 ++ 0xFF#8) 0) ∧
    bench.memTarget (0xC0#8 ++ 0x00#8) = some (3, sram, .ram) ∧ sram.carriesOut (.memWrite (0xC0#8 ++ 0x00#8) 0x5A) ∧
    bench.someDev Device.anySilent = false ∧ (benchFlags 0x21 0x8000).someDev Device.anySilent := by decide +kernel

/-- The two-byte unknown opcode of the table stored at the pc, the entry of INVALID_INSTR as given. -/
def benchInvalid (f : Word) : State :=
  withRom [0xED, 0x00] { bench with devs := bench.devs.set 0 (some ((Device.atReset launchProc).setFlags 0x01 f)) }

/-- An unknown opcode of two bytes, and one of one byte. -/
theorem witness_invalidOpcode :
    (benchInvalid 0x0400).storesAtPc [0xED, 0x00] ∧ (benchInvalid 0x0400).runningProc.isSome ∧
    UnknownOpcode (benchInvalid 0x0400).hw.opcodes .compatible Core.atReset [0xED, 0x00] ∧
    UnknownOpcode (benchInvalid 0x0400).hw.opcodes .compatible Core.atReset [0xFF] := by
  refine ⟨fun n b h => ?_, by decide +kernel, ⟨by simp, fun got h0 hp hn => ?_, rfl⟩, ⟨by simp, fun got h0 hp hn => ?_, rfl⟩⟩
  · match n, h with
    | 0, h => cases h; decide +kernel
    | 1, h => cases h; decide +kernel
    | n + 2, h => simp at h
  · match got, h0, hp, hn with
    | [], h0, _, _ => exact absurd rfl h0
    | [x], _, hp, _ =>
      obtain rfl : x = 0xED#8 := by simpa using hp
      decide
    | x :: y :: l, _, hp, hn => exact absurd (List.IsPrefix.eq_of_length hp (by have := hp.length_le; simp at *; omega)) hn
  · match got, h0, hp, hn with
    | [], h0, _, _ => exact absurd rfl h0
    | x :: l, _, hp, hn => exact absurd (List.IsPrefix.eq_of_length hp (by have := hp.length_le; simp at *; omega)) hn

/-- INVALID_INSTR handled by each mechanism, its silent flags set or not (V92), and refused for each reason. -/
theorem witness_invalidOpcodeHandled :
    leads (benchInvalid 0x0400) .procstep (fun t => t.answer == .stopped && t.everyDev Device.shut) ∧
    leads (benchInvalid 0x8100) .procstep (fun t => t.answer == .stopped && t.everyDev Device.susp && t.core.pc == 0 &&
      devHas t 0 (fun d => d.decr == 1 && d.defr == 0x8100 && d.flags 1 == 0x8100)) ∧
    leads (benchInvalid 0x0300) .procstep (fun t => t.everyDev fun d => d.susp && d.mode == .monitor) ∧
    refuses (exec .procstep (benchInvalid 0xC000)) .invalidOpcodeUnhandled ∧
    refuses (exec .procstep (inMonitor (benchInvalid 0x0200))) .monitorModeReentry ∧
    refuses (exec .procstep { benchInvalid 0x0200 with hw := { benchHw with monitorPresent := false } }) .monitorModeAbsent := by
  decide +kernel

/-- `LD HL, nn` under way: its first fetch is performed, and an event stops the second. -/
theorem witness_underway :
    let s := (benchFlags 0x10 0x0100).withPc 0xC0FF
    ∃ q u t, Executes s (.ldHlNn 1) (ldHlNnProg 1 s.core) ∧ Underway s (ldHlNnProg 1 s.core) q u ∧
      nextTransaction q = some (.memrd (s.core.pc + 1)) ∧ exec (.memrd (s.core.pc + 1)) u = .next t ∧ t.answer = .stopped := by
  intro s
  obtain ⟨w, h1, h2⟩ := exists_next (o := exec (.memrd s.core.pc) s)
    (p := fun w => w.answer == .byte 0 && answers (exec (.memrd (s.core.pc + 1)) (w.withAnswer s.answer)) .stopped)
    (by decide +kernel)
  simp only [Bool.and_eq_true, beq_iff_eq] at h2
  obtain ⟨t, h3, h4⟩ := exists_next h2.2
  obtain ⟨d, hd⟩ : ∃ d, s.runningProc = some d := Option.isSome_iff_exists.1 (by decide +kernel)
  exact ⟨_, _, t, .ldHlNn hd 1, Underway.memRd .start h1 h2.1, rfl, h3, by simpa using h4⟩

/-- The instruction's program runs to an end with the property. -/
def comesTo (p : CoreProg) (s : State) (q : Core → State → Bool) : Bool :=
  match runProg p s with
  | .done (.valid c) u => q c u
  | .done .invalidOpcode _ => false
  | .stopped _ => false
  | .refused _ => false

/-- A program that runs to an end is under way to it. -/
theorem underway_complete {p : CoreProg} {s : State} {q : Core → State → Bool} (h : comesTo p s q = true) :
    ∃ c u, Underway s p (.complete c) u ∧ q c u = true := by
  unfold comesTo at h
  split at h
  · next c u hr => exact ⟨c, u, Underway.of_runProg p .start hr, h⟩
  all_goals cases h

/-- An instruction that has stored a byte and come to its end, with DSR bit 15 of a device set, and with none set. -/
theorem witness_completedInstruction : ∀ f ∈ [0x8000#16, 0x0000#16],
    ∃ p c u, Executes (benchStore f) .procstep p ∧ Underway (benchStore f) p (.complete c) u ∧
      (c.pc == 3 && u.mem.byte (cellOf 3 0xC000) == 0x5A && u.busLast == 0x5A &&
        u.someDev (fun d => (d.dsr 0).getLsbD 15) == (f == 0x8000) && !u.someDev fun d => (d.dsr 0).getLsbD 14) = true := by
  intro f hf
  simp only [List.mem_cons, List.not_mem_nil, or_false] at hf
  have hd : (benchStore f).runningProc = some (Device.atReset launchProc) := by
    rcases hf with rfl | rfl <;> decide +kernel
  obtain ⟨c, u, hu, hq⟩ := underway_complete (s := benchStore f)
    (p := fetchProg (benchStore f).hw.opcodes (Device.atReset launchProc).mode (benchStore f).core
      (fetchLimit (benchStore f).hw.opcodes) [])
    (q := fun c u => c.pc == 3 && u.mem.byte (cellOf 3 0xC000) == 0x5A && u.busLast == 0x5A &&
      u.someDev (fun d => (d.dsr 0).getLsbD 15) == (f == 0x8000) && !u.someDev fun d => (d.dsr 0).getLsbD 14)
    (by rcases hf with rfl | rfl <;> decide +kernel)
  exact ⟨_, c, u, .procstep hd, hu, hq⟩

/-- An instruction that completes, and two that events stop: by suspension, and by Monitor Mode. -/
theorem witness_instructionEnds :
    answers (exec .procstep bench) .completed ∧ answers (exec (.ldHlNn 1) bench) .completed ∧
    leads { withRom [0x32, 0x00, 0xC2] (benchFlags 0x20 0x0100) with hw := benchHw } .procstep
      (fun t => t.answer == .stopped && t.core.pc == 0) ∧
    leads (withRom [0x32, 0x00, 0xC2] (benchWith { sram.setFlags 0x20 0x0200 with emvr := 0x4000 })) .procstep
      (fun t => t.answer == .stopped && t.core.pc == 0x4000) := by decide +kernel

/-- An instruction whose second transaction is stopped: the silent flag that was set before it stays set, since no message is
sent. -/
theorem witness_abandonedInstruction :
    leads (withRom [0x32, 0x00, 0xC2] (benchWith ((sram.setFlags 0x20 0x0100).setFlags 0x21 0x8000))) .procstep
      (fun t => t.answer == .stopped && devHas t 3 (fun d => d.flags 0x21 == 0x8000 && d.flags 0x20 == 0x8100)) := by
  decide +kernel

end Sys2Proof.Tests
end

section
/-! SUPPORT. What every step keeps: a property that each elementary change, Power-On and resuming keep is kept by the step,
and the parameters, the settings and each device's shared state under them (10_state.md R22 to R45). -/

namespace Sys2Proof.Machine

/-! ## A step as a chain of changes -/

/-- A step other than Power-On is a chain of elementary changes, or a suspension that ends. -/
theorem step_opChain_or_resume {s t : State} (h : step s = .next t)
    (hp : ∀ cfg rest, decode s.pending ≠ .ok (.poweron cfg, rest)) :
    OpChain s t ∨ ∃ rest, t = ((s.withPending rest).resumeAll).withAnswer .done := by
  rcases step_cases h with ⟨-, hx⟩ | ⟨i, rest, hd, hx⟩
  · exact .inl (exec_opChain rfl hx)
  · have hpend : Change false s (s.withPending rest) := .pending s rest
    cases hi : isControl i with
    | false =>
      obtain ⟨hall, hquiet⟩ := exec_opChain hi hx
      exact .inl ⟨(Chain.one hpend.any).trans hall, fun ha => (Chain.one hpend).trans (hquiet ha)⟩
    | true =>
      cases i
      case poweron cfg => exact absurd hd (hp cfg rest)
      case resume =>
        rcases exec_resume hx with ⟨-, rfl⟩ | ⟨-, rfl⟩
        · exact .inr ⟨rest, rfl⟩
        · exact .inl (.of_chain ((Chain.one hpend).trans (Chain.one (.answer _ _))))
      all_goals cases hi

/-- What each elementary change, Power-On and resuming keep, every step keeps. -/
theorem step_keeps {P : State → Prop} (hchange : ∀ s t, Change true s t → P s → P t)
    (hpower : ∀ s cfg, P s → P (s.powerOn cfg)) (hresume : ∀ s, P s → P s.resumeAll) {s t : State}
    (h : step s = .next t) (hs : P s) : P t := by
  by_cases hp : ∃ cfg rest, decode s.pending = .ok (.poweron cfg, rest)
  · obtain ⟨cfg, rest, hd⟩ := hp
    rcases step_cases h with ⟨hn, -⟩ | ⟨i, rest', hd', hx⟩
    · rw [hn] at hd; cases hd
    · cases hd.symm.trans hd'
      obtain ⟨-, rfl⟩ := exec_poweron hx
      exact hchange _ _ (.answer _ _) (hpower _ cfg (hchange _ _ (.pending s rest) hs))
  · rcases step_opChain_or_resume h fun cfg rest hd => hp ⟨cfg, rest, hd⟩ with ⟨hc, -⟩ | ⟨rest, rfl⟩
    · exact Chain.keeps hchange hc hs
    · exact hchange _ _ (.answer _ _) (hresume _ (hchange _ _ (.pending s rest) hs))

/-! ## The parameters of the machine -/

theorem State.config_allDevs {s : State} {f : Device → Device} (hf : ∀ d, (f d).spec = d.spec) :
    (s.allDevs f).config = s.config := by
  have h : Option.map Device.spec ∘ Option.map f = Option.map Device.spec := by
    funext o
    cases o <;> simp [hf]
  simp [State.config, h]

theorem State.config_setDev {s : State} {id : DevId} {d e : Device} (hd : s.dev? id = some d) (he : e.spec = d.spec) :
    (s.setDev id e).config = s.config := by
  have hself := congrArg State.devs (State.setDev_self hd)
  have hmap : (s.devs.set id.toNat (some e)).map (Option.map Device.spec) = s.devs.map (Option.map Device.spec) := by
    rw [List.map_set, Option.map_some, he, ← Option.map_some, ← List.map_set]
    exact congrArg _ hself
  simp only [State.config, State.setDev_hw, State.setDev_devs, hmap]

theorem Change.config {ev : Bool} {s t : State} (h : Change ev s t) : t.config = s.config := by
  cases h with
  | answer | bus | drawn | core | pending | store => rfl
  | ehcr _ id d h | flags _ id d h | emvr _ id d h | devAxr _ id d h | trigger _ id d h => exact State.config_setDev h rfl
  | clear | suspend | shutdown => exact State.config_allDevs fun _ => rfl
  | monitor => exact State.config_allDevs (s := s) (f := fun e => { e with mode := .monitor }) fun _ => rfl

theorem State.config_powerOn (s : State) (cfg : BitVec 12) : (s.powerOn cfg).config = s.config := by
  have hmap : (s.powerOn cfg).devs.map (Option.map Device.spec) = s.devs.map (Option.map Device.spec) := by
    refine List.ext_getElem? fun n => ?_
    simp only [State.powerOn_devs, List.getElem?_map, List.getElem?_mapIdx, Option.map_map]
    congr 1
    funext o
    cases o <;> rfl
  simp only [State.config, State.powerOn_hw, hmap]

theorem State.config_resumeAll (s : State) : s.resumeAll.config = s.config := State.config_allDevs fun _ => rfl

/-- Every step keeps the parameters (R44). -/
theorem step_config {s t : State} (h : step s = .next t) : t.config = s.config :=
  step_keeps (P := fun u => u.config = s.config) (fun _ _ hc hs => hc.config.trans hs)
    (fun u cfg hs => (u.config_powerOn cfg).trans hs) (fun u hs => u.config_resumeAll.trans hs) h rfl

/-- The devices of the same parameters stand at the same Device IDs. -/
theorem State.dev?_isSome_of_config {s t : State} (h : t.config = s.config) (id : DevId) :
    (t.dev? id).isSome = (s.dev? id).isSome := by
  have hspec : ∀ u : State, ((u.devs.map (Option.map Device.spec))[id.toNat]?).join.isSome = (u.dev? id).isSome := by
    intro u
    rw [State.dev?, List.getElem?_map]
    cases u.devs[id.toNat]? with
    | none => rfl
    | some o => cases o <;> rfl
  rw [← hspec t, ← hspec s, (Prod.mk.inj h).2]

/-- A relation from each device to its successor reaches every device after. -/
theorem Devwise.source {R : Device → Device → Prop} {s t : State} (h : Devwise R s t) (hc : t.config = s.config)
    {id : DevId} {e : Device} (he : t.dev? id = some e) : ∃ d, s.dev? id = some d ∧ R d e := by
  have hsome : (s.dev? id).isSome = true := by rw [← State.dev?_isSome_of_config hc, he]; rfl
  obtain ⟨d, hd⟩ := Option.isSome_iff_exists.1 hsome
  obtain ⟨e', he', hR⟩ := h id d hd
  cases he.symm.trans he'
  exact ⟨d, hd, hR⟩

theorem Devwise.powerOn {R : Device → Device → Prop} (h : ∀ n cfg slot d, R d (powerOnDev n cfg slot d.spec)) (s : State)
    (cfg : BitVec 12) : Devwise R s (s.powerOn cfg) := fun id d hd =>
  ⟨_, by rw [State.dev?_powerOn, hd]; rfl, h _ _ _ d⟩

theorem Devwise.resumeAll {R : Device → Device → Prop} (h : ∀ d, R d { d with susp := false }) (s : State) :
    Devwise R s s.resumeAll := Devwise.allDevs h s

/-! ## Sound devices -/

/-- Soundness of a device in terms of what its table reads (R22, R24, R38). -/
theorem Device.wf_iff (d : Device) :
    d.wf = true ↔ Sparse.wf 256 d.eht = true ∧ (∀ c, d.flags c &&& reservedFlags = 0#16) ∧ Sparse.wf 256 d.devAxr = true ∧
      d.defr &&& reservedFlags = 0#16 := by
  constructor
  · intro h
    have hflags := Device.wf_flags h
    simp only [Device.wf, Bool.and_eq_true, beq_iff_eq] at h
    obtain ⟨⟨⟨heht, -⟩, haxr⟩, hdefr⟩ := h
    exact ⟨heht, hflags, haxr, hdefr⟩
  · rintro ⟨heht, hflags, haxr, hdefr⟩
    simp only [Device.wf, Bool.and_eq_true, List.all_eq_true, beq_iff_eq]
    refine ⟨⟨⟨heht, fun p hp => ?_⟩, haxr⟩, hdefr⟩
    have hlt : p.1 < 256 := (((Sparse.wf_iff _ _).1 heht).2 p hp).1
    have hread : d.flags (BitVec.ofNat 8 p.1) = p.2 := by
      rw [Device.flags, BitVec.toNat_ofNat, Nat.mod_eq_of_lt hlt, Sparse.get_of_mem heht hp]
    rw [← hread]
    exact hflags _

theorem Device.wf_setFlags {d : Device} (h : d.wf = true) {c : Byte} {f : Word} (hf : f &&& reservedFlags = 0#16) :
    (d.setFlags c f).wf = true := by
  obtain ⟨heht, hflags, haxr, hdefr⟩ := (Device.wf_iff d).1 h
  refine (Device.wf_iff _).2 ⟨Sparse.wf_set f c.isLt heht, fun c' => ?_, haxr, hdefr⟩
  rw [Device.flags_setFlags]
  split
  · exact hf
  · exact hflags c'

theorem Device.wf_clearSilent {d : Device} (h : d.wf = true) : d.clearSilent.wf = true := by
  obtain ⟨heht, hflags, haxr, hdefr⟩ := (Device.wf_iff d).1 h
  refine (Device.wf_iff _).2 ⟨Sparse.wf_andAll _ heht, fun c => ?_, haxr, hdefr⟩
  rw [Device.flags_clearSilent h, BitVec.and_assoc, BitVec.and_comm (clearKeeps _), ← BitVec.and_assoc, hflags c,
    BitVec.zero_and]

/-- Automatic silencing sets no reserved bit (60_exceptions.md R150). -/
theorem flagsAfterTrigger_reserved {f : Word} (hf : f &&& reservedFlags = 0#16) (k : EventKind) (bp : BpSilence)
    (m : Mode) : flagsAfterTrigger k bp m f &&& reservedFlags = 0#16 := by
  have hs : silenceSet bp m &&& reservedFlags = 0#16 := by cases bp <;> cases m <;> decide
  cases k with
  | compulsory | protection => exact hf
  | breakpoint => rw [flagsAfterTrigger, BitVec.and_comm, BitVec.and_or_distrib_left, BitVec.and_comm, hf,
      BitVec.and_comm, hs]; rfl

theorem Device.wf_recordTrigger {d : Device} (h : d.wf = true) (hw : Hardware) (k : EventKind) (c : Byte) (a x : Word) :
    (d.recordTrigger hw k c a x).wf = true := by
  have hf := Device.wf_flags h c
  have hf' := flagsAfterTrigger_reserved hf k hw.bpSilence d.mode
  obtain ⟨heht, hflags, haxr, -⟩ := (Device.wf_iff _).1 (Device.wf_setFlags (c := c) h hf')
  refine (Device.wf_iff _).2 ⟨heht, hflags, haxr, ?_⟩
  unfold Device.recordTrigger
  cases hw.defrCopy with
  | before => exact hf
  | after => exact hf'

/-- The defined bits of a word have no reserved one among them (30_encoding.md R81). -/
theorem and_definedFlags_reserved (f : Word) : f &&& definedFlags &&& reservedFlags = 0#16 := by
  rw [BitVec.and_assoc, show definedFlags &&& reservedFlags = 0#16 by decide, BitVec.and_zero]

theorem defaultFlags_reserved (k : EventKind) : defaultFlags k &&& reservedFlags = 0#16 := by cases k <;> decide

theorem powerOnDev_wf (n : Nat) (cfg : BitVec 12) (slot : Nat) (spec : DeviceSpec) :
    (powerOnDev n cfg slot spec).wf = true := by
  refine (Device.wf_iff _).2 ⟨Sparse.wf_ofFun _ _, fun c => ?_, Sparse.wf_ofFun _ _, and_definedFlags_reserved _⟩
  rw [powerOnDev_flags]
  split
  · exact defaultFlags_reserved _
  · exact and_definedFlags_reserved _

/-- Soundness of a device under the elementary changes. -/
theorem Device.wf_closed : DeviceClosed true fun d e => d.wf = true → e.wf = true where
  refl _ h := h
  trans h₁ h₂ h := h₂ (h₁ h)
  ehcr _ _ h := h
  flags d c f hf h := Device.wf_setFlags h (hf.trans (Device.wf_flags h c))
  emvr _ _ h := h
  devAxr d i v h := by
    obtain ⟨heht, hflags, haxr, hdefr⟩ := (Device.wf_iff d).1 h
    exact (Device.wf_iff _).2 ⟨heht, hflags, Sparse.wf_set v i.isLt haxr, hdefr⟩
  clear _ h := Device.wf_clearSilent h
  trigger _ hw k _ c a x h := Device.wf_recordTrigger h hw k c a x
  suspend _ _ h := h
  shutdown _ _ h := h
  monitor _ _ h := h

/-! ## What all devices share -/

/-- What the whole system shares: mode, suspension, shutdown (60_exceptions.md R146 to R148, R159). -/
def Device.shared (d : Device) : Mode × Bool × Bool := (d.mode, d.susp, d.shut)

theorem Device.agrees_iff (d e : Device) : d.agrees e = true ↔ d.shared = e.shared := by
  simp [Device.agrees, Device.shared, and_assoc]

theorem State.uniform_iff (s : State) :
    s.uniform = true ↔ ∀ d, some d ∈ s.devs → ∀ e, some e ∈ s.devs → d.shared = e.shared := by
  simp only [State.uniform, State.everyDev_iff, Device.agrees_iff]

/-- What the system shares changes at all devices alike. -/
def SharedAlike (s t : State) : Prop :=
  ∃ f : Mode × Bool × Bool → Mode × Bool × Bool, Devwise (fun d e => e.shared = f d.shared) s t

theorem SharedAlike.setDev {s : State} {id : DevId} {d e : Device} (hd : s.dev? id = some d) (h : e.shared = d.shared) :
    SharedAlike s (s.setDev id e) :=
  ⟨fun p => p, Devwise.setDev (R := fun d e => e.shared = d.shared) (fun _ => rfl) hd h⟩

theorem SharedAlike.allDevs {f : Device → Device} (g : Mode × Bool × Bool → Mode × Bool × Bool)
    (h : ∀ d, (f d).shared = g d.shared) (s : State) : SharedAlike s (s.allDevs f) :=
  ⟨g, Devwise.allDevs (R := fun d e => e.shared = g d.shared) h s⟩

theorem Change.sharedAlike {ev : Bool} {s t : State} (h : Change ev s t) : SharedAlike s t := by
  cases h with
  | answer | bus | drawn | core | pending | store => exact ⟨fun p => p, fun _ d hd => ⟨d, hd, rfl⟩⟩
  | ehcr _ id d h | flags _ id d h | emvr _ id d h | devAxr _ id d h | trigger _ id d h => exact .setDev h rfl
  | clear => exact .allDevs (f := Device.clearSilent) (fun p => p) (fun _ => rfl) s
  | suspend => exact .allDevs (fun p => (p.1, true, p.2.2)) (fun _ => rfl) s
  | shutdown => exact .allDevs (fun p => (p.1, p.2.1, true)) (fun _ => rfl) s
  | monitor => exact .allDevs (f := fun e => { e with mode := .monitor }) (fun p => (.monitor, p.2)) (fun _ => rfl) s

theorem State.powerOn_sharedAlike (s : State) (cfg : BitVec 12) : SharedAlike s (s.powerOn cfg) := by
  let c := cfg &&& definedConfig s.hw.sms1Bit
  exact ⟨fun _ => (powerOnMode c, powerOnSuspended c, false), fun id d hd =>
    ⟨_, by rw [State.dev?_powerOn, hd]; rfl, rfl⟩⟩

theorem State.resumeAll_sharedAlike (s : State) : SharedAlike s s.resumeAll :=
  .allDevs (fun p => (p.1, false, p.2.2)) (fun _ => rfl) s

/-! ## The invariant -/

theorem State.wf_iff (s : State) :
    s.wf = true ↔ s.devs.length = 16 ∧ (∀ d, some d ∈ s.devs → d.wf = true) ∧ s.uniform = true ∧
      s.poc &&& ~~~(sampledBits s.hw.sms1Bit) = 0#12 ∧ s.mem.wf = true := by
  simp [State.wf, State.everyDev_iff, and_assoc]

/-- A successor with the same parameters meets the invariant if its devices stay sound and change what they share alike,
and its settings and memory are sound. -/
theorem State.wf_of_alike {s t : State} (hs : s.wf = true) (hc : t.config = s.config)
    (hdev : Devwise (fun d e => d.wf = true → e.wf = true) s t) (hshared : SharedAlike s t)
    (hpoc : t.poc &&& ~~~(sampledBits t.hw.sms1Bit) = 0#12) (hmem : t.mem.wf = true) : t.wf = true := by
  obtain ⟨hlen, hwf, huni, -, -⟩ := (State.wf_iff s).1 hs
  have hlen' : t.devs.length = 16 := by
    have h := congrArg List.length (Prod.mk.inj hc).2
    rwa [List.length_map, List.length_map, hlen] at h
  have hfrom : ∀ e, some e ∈ t.devs → ∃ id, t.dev? id = some e := fun e he => State.dev?_of_mem hlen'.le he
  refine (State.wf_iff t).2 ⟨hlen', fun e he => ?_, (State.uniform_iff t).2 fun e he e' he' => ?_, hpoc, hmem⟩
  · obtain ⟨id, hid⟩ := hfrom e he
    obtain ⟨d, hd, hde⟩ := hdev.source hc hid
    exact hde (hwf d (State.mem_of_dev? hd))
  · obtain ⟨f, hf⟩ := hshared
    obtain ⟨id, hid⟩ := hfrom e he
    obtain ⟨id', hid'⟩ := hfrom e' he'
    obtain ⟨d, hd, hde⟩ := hf.source hc hid
    obtain ⟨d', hd', hde'⟩ := hf.source hc hid'
    rw [hde, hde', (State.uniform_iff s).1 huni d (State.mem_of_dev? hd) d' (State.mem_of_dev? hd')]

/-- The settings that only Power-On changes (R27, R44). -/
theorem Change.settings {ev : Bool} {s t : State} (h : Change ev s t) : t.poc = s.poc ∧ t.bootMap = s.bootMap := by
  cases h <;> exact ⟨rfl, rfl⟩

theorem Change.wf {s t : State} (h : Change true s t) (hs : s.wf = true) : t.wf = true := by
  obtain ⟨-, -, -, hpoc, hmem⟩ := (State.wf_iff s).1 hs
  refine State.wf_of_alike hs h.config (Device.wf_closed.change h) h.sharedAlike ?_ (h.memory_wf hmem)
  rw [h.settings.1, (Prod.mk.inj h.config).1, hpoc]

theorem State.powerOn_wf {s : State} (cfg : BitVec 12) (hs : s.wf = true) : (s.powerOn cfg).wf = true := by
  refine State.wf_of_alike hs (s.config_powerOn cfg) (Devwise.powerOn (fun n c slot d _ => powerOnDev_wf n c slot d.spec) s cfg)
    (s.powerOn_sharedAlike cfg) ?_ (s.powerOn_mem_wf cfg)
  rw [State.powerOn_poc, State.powerOn_hw, definedConfig_eq, BitVec.and_assoc, BitVec.and_not_self]; exact BitVec.and_zero

theorem State.resumeAll_wf {s : State} (hs : s.wf = true) : s.resumeAll.wf = true := by
  obtain ⟨-, -, -, hpoc, hmem⟩ := (State.wf_iff s).1 hs
  exact State.wf_of_alike hs s.config_resumeAll (Devwise.resumeAll (fun _ h => h) s) s.resumeAll_sharedAlike hpoc hmem

/-! ## The statements about every step -/

/-- Settles O12: each elementary change, Power-On and resuming keep the invariant. -/
theorem stepKeepsInvariant : Obligations.StepKeepsInvariant := fun _ _ hs h =>
  step_keeps (P := fun u => u.wf = true) (fun _ _ => Change.wf) (fun _ cfg => State.powerOn_wf cfg)
    (fun _ => State.resumeAll_wf) h hs

/-- Settles O16. -/
theorem configurationNeverChanges : Obligations.ConfigurationNeverChanges := fun _ _ => step_config

/-- A device's POST code and whether it is enabled, under the elementary changes. -/
theorem Device.postEnab_closed : DeviceClosed true fun d e => e.post = d.post ∧ e.enab = d.enab where
  refl _ := ⟨rfl, rfl⟩
  trans h₁ h₂ := ⟨h₂.1.trans h₁.1, h₂.2.trans h₁.2⟩
  ehcr _ _ := ⟨rfl, rfl⟩
  flags _ _ _ _ := ⟨rfl, rfl⟩
  emvr _ _ := ⟨rfl, rfl⟩
  devAxr _ _ _ := ⟨rfl, rfl⟩
  clear _ := ⟨rfl, rfl⟩
  trigger _ _ _ _ _ _ _ := ⟨rfl, rfl⟩
  suspend _ _ := ⟨rfl, rfl⟩
  shutdown _ _ := ⟨rfl, rfl⟩
  monitor _ _ := ⟨rfl, rfl⟩

/-- Settles O17: no elementary change, and no end of a suspension, touches these settings. -/
theorem powerOnSettingsKept : Obligations.PowerOnSettingsKept := by
  intro s t h hp
  rcases step_opChain_or_resume h hp with ⟨hc, -⟩ | ⟨rest, rfl⟩
  · have hset : t.poc = s.poc ∧ t.bootMap = s.bootMap :=
      Chain.keeps (P := fun u => u.poc = s.poc ∧ u.bootMap = s.bootMap)
        (fun _ _ hu hs => ⟨hu.settings.1.trans hs.1, hu.settings.2.trans hs.2⟩) hc ⟨rfl, rfl⟩
    exact ⟨hset.1, hset.2, Device.postEnab_closed.chain hc⟩
  · exact ⟨rfl, rfl, Devwise.resumeAll (R := fun d e => e.post = d.post ∧ e.enab = d.enab) (fun _ => ⟨rfl, rfl⟩)
      (s.withPending rest)⟩

/-- The event record is the same (R35 to R38). -/
def Device.SameRecord (d e : Device) : Prop := e.decr = d.decr ∧ e.dear = d.dear ∧ e.dedr = d.dedr ∧ e.defr = d.defr

theorem Device.SameRecord.refl (d : Device) : d.SameRecord d := ⟨rfl, rfl, rfl, rfl⟩

/-- The event record under the changes in which no event triggers. -/
theorem Device.sameRecord_closed : DeviceClosed false Device.SameRecord where
  refl := .refl
  trans := fun ⟨a, b, c, d⟩ ⟨a', b', c', d'⟩ => ⟨a'.trans a, b'.trans b, c'.trans c, d'.trans d⟩
  ehcr d _ := .refl d
  flags d _ _ _ := .refl d
  emvr d _ := .refl d
  devAxr d _ _ := .refl d
  clear d := .refl d
  trigger h := by cases h
  suspend h := by cases h
  shutdown h := by cases h
  monitor h := by cases h

theorem Answer.triggered_eq_false {a : Answer} (h₁ : a ≠ .stopped) (h₂ : a ≠ .event .stopped) : a.triggered = false := by
  unfold Answer.triggered
  split
  · exact absurd rfl h₁
  · exact absurd rfl h₂
  · rfl

/-- Settles O18: a step that reports no trigger is a chain without the changes of one. -/
theorem eventRecordRetained : Obligations.EventRecordRetained := by
  intro s t h hp h₁ h₂
  rcases step_opChain_or_resume h hp with ⟨-, hquiet⟩ | ⟨rest, rfl⟩
  · exact Device.sameRecord_closed.chain (hquiet (Answer.triggered_eq_false h₁ h₂))
  · exact Devwise.resumeAll (R := Device.SameRecord) (fun d => .refl d) (s.withPending rest)

end Sys2Proof.Machine
end

section
/-! SUPPORT. One step, the state after reset, and the state after Power-On (10_state.md R19, R27, R45; 70_reset_and_hazards.md
R181 to R189). -/

namespace Sys2Proof.Machine

/-! ## One step -/

theorem step_idle {s : State} (h : s.pending = []) : step s = exec .procstep s := by
  unfold step
  rw [h]

theorem step_pending {s : State} (h : s.pending ≠ []) :
    step s = match decode s.pending with
      | .ok (i, rest) => exec i (s.withPending rest)
      | .error e => .fault (.notAnOperation e) := by
  unfold step
  split
  · next hp => exact absurd hp h
  · rfl

/-- Settles O5: where an operation is decoded something is pending. -/
theorem stepRunsTheDecodedOperation : Obligations.StepRunsTheDecodedOperation := by
  refine fun s => ⟨step_idle, fun i rest hd => ?_, fun e hp hd => by rw [step_pending hp, hd]⟩
  have hp : s.pending ≠ [] := fun hp => by rw [hp] at hd; cases hd
  rw [step_pending hp, hd]

/-! ## Reset -/

/-- The devices after reset are the launch machine's (R45). -/
theorem State.mem_reset_devs {d : Device} (h : some d ∈ State.reset.devs) : ∃ spec, d = Device.atReset spec := by
  obtain ⟨o, -, ho⟩ := List.mem_map.1 h
  obtain ⟨spec, -, hd⟩ := Option.map_eq_some_iff.1 ho
  exact ⟨spec, hd.symm⟩

/-- The table of a device after reset (R45; 70_reset_and_hazards.md R187). -/
theorem Device.flags_atReset (spec : DeviceSpec) (c : Byte) :
    (Device.atReset spec).flags c = (eventKind spec.kinds c).elim 0#16 defaultFlags := by
  simp only [Device.flags, Device.atReset, powerOnTable, Sparse.get_ofFun _ _ _ c.isLt, BitVec.ofNat_toNat,
    BitVec.setWidth_eq]
  cases eventKind spec.kinds c <;> rfl

theorem Device.wf_atReset (spec : DeviceSpec) : (Device.atReset spec).wf = true := by
  refine (Device.wf_iff _).2 ⟨Sparse.wf_ofFun _ _, fun c => ?_, Sparse.wf_ofFun _ _, BitVec.zero_and⟩
  rw [Device.flags_atReset]
  cases eventKind spec.kinds c with
  | none => exact BitVec.zero_and
  | some k => exact defaultFlags_reserved k

theorem defaultFlags_eq (k : EventKind) : defaultFlags k = if k = .breakpoint then 0x0000#16 else 0x0400#16 := by
  cases k <;> rfl

/-- Settles O6. -/
theorem resetState : Obligations.ResetState := by
  refine ⟨rfl, fun id d hd => ?_⟩
  obtain ⟨spec, rfl⟩ := State.mem_reset_devs (State.mem_of_dev? hd)
  refine ⟨rfl, rfl, rfl, rfl, fun c k hk => ?_⟩
  have hk : eventKind spec.kinds c = some k := hk
  rw [Device.flags_atReset, hk]
  exact defaultFlags_eq k

/-- The launch configuration has no reserved bit, wherever the SMS1 Bus bit stands (R27). -/
theorem launchConfig_sampled (b : Sms1Bit) : launchConfig &&& ~~~(sampledBits b) = 0#12 := by cases b <;> decide

/-- Settles O7: each device of the launch machine is sound, and all start alike. -/
theorem resetMeetsInvariant : Obligations.ResetMeetsInvariant := by
  refine (State.wf_iff _).2 ⟨rfl, fun d hd => ?_, (State.uniform_iff _).2 fun d hd e he => ?_, launchConfig_sampled _,
    State.reset_mem_wf⟩
  · obtain ⟨spec, rfl⟩ := State.mem_reset_devs hd
    exact Device.wf_atReset spec
  · obtain ⟨spec, rfl⟩ := State.mem_reset_devs hd
    obtain ⟨spec', rfl⟩ := State.mem_reset_devs he
    rfl

/-! ## Power-On -/

/-- Who answers a boot region: the mapped boot device, and nobody if it does not respond (70_reset_and_hazards.md R186). -/
theorem State.memTarget_boot {s : State} {a : Word} {r : MemRegion}
    (hr : (s.hw.memMap.find? fun r => inRange r.lo r.hi a) = some r) (hb : r.target = .boot) :
    s.memTarget a =
      (s.answering (bootDevice s.hw s.bootMap)).map fun d => (bootDevice s.hw s.bootMap, d, r.store) := by
  unfold State.memTarget
  simp only [hr, hb, MemTarget.resolve]
  cases s.answering (bootDevice s.hw s.bootMap) <;> rfl

/-- The Boot Device codes (R27). -/
theorem bootDevice_of_mem {hw : Hardware} {p : BitVec 2 × DevId}
    (h : p ∈ [(0b00#2, hw.bromId), (0b01#2, hw.cardId), (0b10#2, hw.ext0Id), (0b11#2, hw.ext1Id)]) :
    bootDevice hw p.1 = p.2 := by
  simp only [List.mem_cons, List.not_mem_nil, or_false] at h
  rcases h with rfl | rfl | rfl | rfl <;> rfl

/-- Settles O9. -/
theorem powerOnRegistersAndBoot : Obligations.PowerOnRegistersAndBoot := by
  intro s cfg hpost
  refine ⟨_, exec_poweron_passed hpost cfg, ?_⟩
  simp only [State.withAnswer_hw, State.withAnswer_poc, State.withAnswer_bootMap, State.withAnswer_core,
    State.withAnswer_pending, State.dev?_withAnswer, State.memTarget_withAnswer, State.answering_withAnswer]
  refine ⟨s.powerOn_hw cfg, (s.powerOn_poc cfg).trans (congrArg _ (definedConfig_eq _)), s.powerOn_bootMap cfg,
    s.powerOn_pc cfg, s.powerOn_pending cfg,
    Devwise.powerOn (R := fun d e => e.spec = d.spec ∧ e.post = d.spec.postCode) (fun _ _ _ _ => ⟨rfl, rfl⟩) s cfg,
    fun p hp hcode a r hr hb => ?_⟩
  have hboot : bootDevice (s.powerOn cfg).hw (s.powerOn cfg).bootMap = p.2 := by
    rw [s.powerOn_hw, s.powerOn_bootMap, hcode, bootDevice_of_mem hp]
  rw [State.memTarget_boot (by rw [s.powerOn_hw]; exact hr) hb, hboot]

end Sys2Proof.Machine
end

section
/-! SUPPORT. The AGAMA Extension Registers of a device that answers: DSR, the reserved registers, EHFR, the device-specific
registers, and the frame of the AXR operations (41_axr_access.md R100 to R118). -/

namespace Sys2Proof.Machine

/-! ## DSR -/

theorem bitAt_getElem {m : Nat} (n : Nat) (b : Bool) (hm : m < 16) : (bitAt n b)[m] = (decide (m = n) && b) := by
  cases b with
  | false => simp [bitAt]
  | true =>
    simp only [bitAt, if_true, BitVec.getElem_shiftLeft, Bool.and_true]
    by_cases h : m = n
    · simp [h]
    · by_cases hlt : m < n
      · simp [h, hlt]
      · simp [h, show m - n ≠ 0 by omega]

/-- The bits of the DSR image that are not device-specific (R30). -/
theorem dsrImage_bits (cs ms : Bool) (b : BitVec 10) (en sh mo su : Bool) :
    (dsrImage cs ms b en sh mo su).getLsbD 15 = cs ∧ (dsrImage cs ms b en sh mo su).getLsbD 14 = ms ∧
      (dsrImage cs ms b en sh mo su).getLsbD 11 = en ∧ (dsrImage cs ms b en sh mo su).getLsbD 10 = sh ∧
      (dsrImage cs ms b en sh mo su).getLsbD 9 = mo ∧ (dsrImage cs ms b en sh mo su).getLsbD 8 = su := by
  simp [dsrImage, bitAt_getElem]

/-- The device-specific bits of the DSR image (R30). -/
theorem dsrImage_specific (cs ms : Bool) (b : BitVec 10) (en sh mo su : Bool) :
    (dsrImage cs ms b en sh mo su).extractLsb' 12 2 = b.extractLsb' 8 2 ∧
      (dsrImage cs ms b en sh mo su).extractLsb' 0 8 = b.extractLsb' 0 8 := by
  constructor <;> ext i hi <;> interval_cases i <;> simp [dsrImage, bitAt_getElem]

/-- What a read of DSR gives: the image with some device-specific bits, the device's own where they are fixed (R107). -/
theorem readDsr_eq (s : State) (id : DevId) (d : Device) :
    ∃ b n, readDsr s id d = (d.dsr b, n) ∧ ∀ b', d.spec.dsrSpecific = some b' → n = 0 ∧ b = b' := by
  unfold readDsr
  split
  · next b hb => exact ⟨b, 0, rfl, fun b' hb' => ⟨rfl, Option.some.inj (hb.symm.trans hb')⟩⟩
  · next hb => exact ⟨_, 1, rfl, fun b' hb' => by rw [hb] at hb'; cases hb'⟩

/-- A device that answers is enabled and not shut down (20_memory.md R66). -/
theorem State.answering_enab {s : State} {id : DevId} {d : Device} (h : s.answering id = some d) :
    d.enab = true ∧ d.shut = false := by
  have hr := (State.answering_dev h).2
  simpa [Device.responds] using hr

/-- Settles O20: the read and the write see the same image, bit by bit. -/
theorem statusRegister : Obligations.StatusRegister := by
  intro s id d h hwf
  obtain ⟨b, n, hread, hfixed⟩ := readDsr_eq s id d
  obtain ⟨henab, hshut⟩ := State.answering_enab h
  obtain ⟨h15, h14, h11, h10, h9, h8⟩ :=
    dsrImage_bits (d.eht.anyBit 15) (d.eht.anyBit 14) b d.enab d.shut (d.mode == .monitor) d.susp
  have hspecific := dsrImage_specific (d.eht.anyBit 15) (d.eht.anyBit 14) b d.enab d.shut (d.mode == .monitor) d.susp
  refine ⟨d.dsr b, n, ?_, fun w hc => ?_, ?_, ?_, h11.trans henab, h10.trans hshut, ?_, h8, fun b' hb' => ?_⟩
  · have hx := axrReadOp_answered h readDsr
    rwa [hread] at hx
  · have hx := axrWriteOp_readOnly h hc readDsr
    rwa [hread] at hx
  · exact (iff_of_eq (congrArg (· = true) h15)).trans (Device.anyBit_iff hwf 15)
  · exact (iff_of_eq (congrArg (· = true) h14)).trans (Device.anyBit_iff hwf 14)
  · exact (iff_of_eq (congrArg (· = true) h9)).trans beq_iff_eq
  · obtain ⟨rfl, rfl⟩ := hfixed b' hb'
    exact ⟨rfl, hspecific⟩

/-! ## The reserved registers -/

/-- Settles O21. -/
theorem reservedRegisters : Obligations.ReservedRegisters := by
  intro s id d v h
  have hread : axrReadOp id readReserved s = .next (s.withAnswer (.word 0x0000#16)) := axrReadOp_answered h _
  have hwrite : ∀ n : Byte, d.carriesOut (.axrWrite n v) = true → axrWriteOp id n (readOnly readReserved) v s =
      .next (s.withAnswer (if v = 0x0000#16 then .done else .axrWriteError)) := fun n hc => axrWriteOp_readOnly h hc _
  refine ⟨fun i hi => ?_, fun p hp => ?_⟩
  · simp only [List.mem_cons, List.not_mem_nil, or_false] at hi
    rcases hi with rfl | rfl | rfl | rfl <;> exact hread
  · simp only [List.mem_cons, List.not_mem_nil, or_false] at hp
    rcases hp with rfl | rfl | rfl | rfl <;> exact hwrite _

/-! ## EHFR -/

theorem not_definedFlags : ~~~definedFlags = reservedFlags := by decide

/-- Where the value read has 0 outside the writable bits, a write changes no bit there exactly if it is of a value that has
0 there too (R102). -/
theorem changes_nothing_outside_iff {cur w : Word} (hcur : cur &&& ~~~w = 0#16) (v : Word) :
    (v ^^^ cur) &&& ~~~w = 0#16 ↔ v &&& ~~~w = 0#16 := by
  have h : (v ^^^ cur) &&& ~~~w = (v &&& ~~~w) ^^^ (cur &&& ~~~w) := by
    ext i hi
    simp only [BitVec.getElem_and, BitVec.getElem_xor, Bool.and_xor_distrib_right]
  rw [h, hcur, BitVec.xor_zero]

/-- The masked update of such a value by another is that other value (R102). -/
theorem masked_update_eq {cur v w : Word} (hcur : cur &&& ~~~w = 0#16) (hv : v &&& ~~~w = 0#16) :
    (cur &&& ~~~w) ||| (v &&& w) = v :=
  calc (cur &&& ~~~w) ||| (v &&& w)
      = (v &&& ~~~w) ||| (v &&& w) := by rw [hcur, hv]
    _ = v &&& (~~~w ||| w) := BitVec.and_or_distrib_left.symm
    _ = v := by rw [BitVec.or_comm, BitVec.or_not_self, BitVec.and_allOnes]

/-- Settles O24: the entry selected has no reserved bit, so the discard rule looks at the value alone. -/
theorem ehfrRegister : Obligations.EhfrRegister := by
  intro s id d v h hwf
  refine ⟨axrReadOp_answered h readEhfr, fun hc => ?_⟩
  have hcur : d.flags d.ehcr &&& ~~~definedFlags = 0#16 := by rw [not_definedFlags]; exact Device.wf_flags hwf _
  have hiff := changes_nothing_outside_iff hcur v
  split
  · next hv =>
    refine ⟨d.setFlags d.ehcr v, ?_, rfl, Device.flags_setFlags d d.ehcr (f := v)⟩
    have hx := axrWriteOp_accepted (g := regEhfr) h hc (hiff.2 hv)
    rwa [show regEhfr.writable d = definedFlags from rfl, show (regEhfr.read s id d).1 = d.flags d.ehcr from rfl,
      masked_update_eq hcur hv] at hx
  · next hv => exact axrWriteOp_discarded (g := regEhfr) h hc fun hq => hv (hiff.1 hq)

end Sys2Proof.Machine
end

section
/-! SUPPORT. The device-specific registers, the AXR operations by register number, and their frame (20_memory.md R70;
30_encoding.md R90; 41_axr_access.md R100, R101, R118). -/

namespace Sys2Proof.Machine

/-! ## Device-specific registers -/

/-- A write looks at a register through what it reads, its writable bits and its update at the device. -/
theorem State.writeChecked_congr {s : State} {id : DevId} {d : Device} {g g' : AxrReg} (hr : g.read s id d = g'.read s id d)
    (hw : g.writable d = g'.writable d) (hf : ∀ v, g.write v d = g'.write v d) (v : Word) :
    s.writeChecked id d g v = s.writeChecked id d g' v := by
  simp only [State.writeChecked, hr, hw, hf]

/-- A device-specific read, by what the device says of the register (R118). -/
theorem axrReadOp_devspec {s : State} {id : DevId} {d : Device} (h : s.answering id = some d) (n : Byte) :
    axrReadOp id (readDevspec n) s = match devAxrKind d.spec.axrs n with
      | none => .next (s.withAnswer (.word 0x0000#16))
      | some (.storage _ _) => .next (s.withAnswer (.word (d.devAxr.get n.toNat)))
      | some .unfixed => .next ((s.drawn 1).withAnswer (.word (Config.freeBits 16 s.draws))) := by
  rw [axrReadOp_answered h, readDevspec]
  rcases devAxrKind d.spec.axrs n with _ | _ | _ <;> rfl

section
variable {s : State} {id : DevId} {d : Device} {n : Byte} {v : Word} (h : s.answering id = some d)
  (hc : d.carriesOut (.axrWrite n v) = true)
include h hc

/-- An unimplemented number is written like a reserved register (R118). -/
theorem axrWriteOp_unimplemented (hk : devAxrKind d.spec.axrs n = none) :
    axrWriteOp id n (regDevspec n) v s = .next (s.withAnswer (if v = 0x0000#16 then .done else .axrWriteError)) := by
  have hg : s.writeChecked id d (regDevspec n) v = s.writeChecked id d (readOnly readReserved) v :=
    State.writeChecked_congr (by simp only [regDevspec, readDevspec, hk]; rfl) (by simp only [regDevspec, hk]; rfl)
      (fun w => by simp only [regDevspec, hk]; rfl) v
  rw [axrWriteOp_answered h hc, hg, ← axrWriteOp_answered h hc, axrWriteOp_readOnly h hc]
  rfl

/-- A register with storage takes the writable bits, by the discard rule (R102, R118). -/
theorem axrWriteOp_storage {w r : Word} (hk : devAxrKind d.spec.axrs n = some (.storage w r)) :
    axrWriteOp id n (regDevspec n) v s =
      if (v ^^^ d.devAxr.get n.toNat) &&& ~~~w = 0x0000#16 then
        .next ((s.setDev id { d with
          devAxr := d.devAxr.set n.toNat ((d.devAxr.get n.toNat &&& ~~~w) ||| (v &&& w)) }).withAnswer .done)
      else .next (s.withAnswer .axrWriteError) := by
  have hread : (regDevspec n).read s id d = (d.devAxr.get n.toNat, 0) := by simp only [regDevspec, readDevspec, hk]
  have hmask : (regDevspec n).writable d = w := by simp only [regDevspec, hk]
  have hwrite : ∀ x, (regDevspec n).write x d = { d with devAxr := d.devAxr.set n.toNat x } := fun x => by
    simp only [regDevspec, hk]
  rw [axrWriteOp_answered h hc, State.writeChecked, hread, hmask, hwrite]
  split <;> rfl

/-- A register whose behaviour is not fixed accepts every write and keeps nothing (R118; log entry 21). -/
theorem axrWriteOp_unfixed (hk : devAxrKind d.spec.axrs n = some .unfixed) :
    axrWriteOp id n (regDevspec n) v s = .next ((s.drawn 1).withAnswer .done) := by
  have hread : (regDevspec n).read s id d = (Config.freeBits 16 s.draws, 1) := by
    simp only [regDevspec, readDevspec, hk]
  have hmask : (regDevspec n).writable d = BitVec.allOnes 16 := by simp only [regDevspec, hk]; rfl
  have hwrite : ∀ x, (regDevspec n).write x d = d := fun x => by simp only [regDevspec, hk]
  rw [axrWriteOp_answered h hc, State.writeChecked, hread, hmask, hwrite, BitVec.not_allOnes, BitVec.and_zero, if_pos rfl,
    State.setDev_self ((State.dev?_drawn s 1 id).trans (State.answering_dev h).1)]
  rfl

end

/-- Settles O26: all four rows of a direction do the same, and what the device says of the register decides. -/
theorem deviceSpecificRegisters : Obligations.DeviceSpecificRegisters := by
  intro s id d n v h
  refine ⟨fun i hi => ?_, fun i hi hc => ?_⟩
  · simp only [List.mem_cons, List.not_mem_nil, or_false] at hi
    rcases hi with rfl | rfl | rfl | rfl <;> exact axrReadOp_devspec h n
  · have hi : exec i s = axrWriteOp id n (regDevspec n) v s := by
      simp only [List.mem_cons, List.not_mem_nil, or_false] at hi
      rcases hi with rfl | rfl | rfl | rfl <;> rfl
    rw [hi]
    rcases hk : devAxrKind d.spec.axrs n with _ | ⟨w, r⟩ | _
    · exact axrWriteOp_unimplemented h hc hk
    · exact axrWriteOp_storage h hc hk
    · exact axrWriteOp_unfixed h hc hk

/-! ## The registers by number -/

/-- The pre-defined registers with writable bits, and the two sorts all others are of (10_state.md R25). -/
theorem axrReg_cases (n : Byte) :
    (∃ r, axrReg n = readOnly r) ∨ (n = 0x08#8 ∧ axrReg n = regEhcr) ∨ (n = 0x09#8 ∧ axrReg n = regEhfr) ∨
      (n = 0x0A#8 ∧ axrReg n = regEmvr) ∨ axrReg n = regDevspec n := by
  have hn : ∀ m : Byte, n.toNat = m.toNat → n = m := fun m => BitVec.eq_of_toNat_eq
  unfold axrReg
  split
  case h_9 h => exact .inr (.inl ⟨hn _ h, rfl⟩)
  case h_10 h => exact .inr (.inr (.inl ⟨hn _ h, rfl⟩))
  case h_11 h => exact .inr (.inr (.inr (.inl ⟨hn _ h, rfl⟩)))
  case h_17 => exact .inr (.inr (.inr (.inr rfl)))
  all_goals exact .inl ⟨_, rfl⟩

theorem axrNumberMatches_exact {p n : Byte} (h : axrNumberMatches p 0xFF#8 n = true) : n = p := by
  have hand : n &&& BitVec.allOnes 8 = p := eq_of_beq h
  rwa [BitVec.and_allOnes] at hand

/-- The numbers of a device-specific row are past the pre-defined registers (R90). -/
theorem axrReg_of_matches {p m n : Byte} (hm : ∀ k : Fin 16, axrNumberMatches p m (BitVec.ofNat 8 k) = false)
    (h : axrNumberMatches p m n = true) : axrReg n = regDevspec n := by
  have hn : 16 ≤ n.toNat := by
    by_contra hlt
    have hk := hm ⟨n.toNat, Nat.lt_of_not_le hlt⟩
    rw [BitVec.ofNat_toNat, BitVec.setWidth_eq, h] at hk
    cases hk
  unfold axrReg
  split
  case h_17 => rfl
  all_goals omega

/-- The first sixteen read rows are those of one register each, the others those of the device-specific ranges (R90). -/
theorem axrReadRows_exec {row : AxrReadRow} (h : row ∈ axrReadRows) :
    (row.mask = 0xFF#8 ∧ ∀ id s, exec (row.instr id row.pat) s = axrReadOp id (axrReg row.pat).read s) ∨
    ((∀ k : Fin 16, axrNumberMatches row.pat row.mask (BitVec.ofNat 8 k) = false) ∧
      ∀ id n s, exec (row.instr id n) s = axrReadOp id (regDevspec n).read s) := by
  rw [← List.take_append_drop 16 axrReadRows, List.mem_append] at h
  refine h.imp (fun h => ?_) fun h => ?_
  · simp only [axrReadRows, List.cons_append, List.nil_append, List.take_succ_cons, List.take_zero, List.mem_cons,
      List.not_mem_nil, or_false] at h
    rcases h with rfl | rfl | rfl | rfl | rfl | rfl | rfl | rfl | rfl | rfl | rfl | rfl | rfl | rfl | rfl | rfl <;>
      exact ⟨rfl, fun _ _ => rfl⟩
  · simp only [axrReadRows, List.cons_append, List.nil_append, List.drop_succ_cons, List.drop_zero, List.mem_cons,
      List.not_mem_nil, or_false] at h
    rcases h with rfl | rfl | rfl | rfl <;> exact ⟨by decide, fun _ _ _ => rfl⟩

/-- The write rows likewise. -/
theorem axrWriteRows_exec {row : AxrWriteRow} (h : row ∈ axrWriteRows) :
    (row.mask = 0xFF#8 ∧ ∀ id v s, exec (row.instr id row.pat v) s = axrWriteOp id row.pat (axrReg row.pat) v s) ∨
    ((∀ k : Fin 16, axrNumberMatches row.pat row.mask (BitVec.ofNat 8 k) = false) ∧
      ∀ id n v s, exec (row.instr id n v) s = axrWriteOp id n (regDevspec n) v s) := by
  rw [← List.take_append_drop 16 axrWriteRows, List.mem_append] at h
  refine h.imp (fun h => ?_) fun h => ?_
  · simp only [axrWriteRows, List.cons_append, List.nil_append, List.take_succ_cons, List.take_zero, List.mem_cons,
      List.not_mem_nil, or_false] at h
    rcases h with rfl | rfl | rfl | rfl | rfl | rfl | rfl | rfl | rfl | rfl | rfl | rfl | rfl | rfl | rfl | rfl <;>
      exact ⟨rfl, fun _ _ _ => rfl⟩
  · simp only [axrWriteRows, List.cons_append, List.nil_append, List.drop_succ_cons, List.drop_zero, List.mem_cons,
      List.not_mem_nil, or_false] at h
    rcases h with rfl | rfl | rfl | rfl <;> exact ⟨by decide, fun _ _ _ _ => rfl⟩

/-- Every AXR read of a number, generic or its row's, reads the register with that number (R90, R100). -/
theorem ReadsAxr.exec_eq {i : Instr} {id : DevId} {n : Byte} (h : ReadsAxr i id n) (s : State) :
    exec i s = axrReadOp id (axrReg n).read s := by
  rcases h with rfl | ⟨row, hrow, rfl⟩
  · rfl
  · have hmatch : axrNumberMatches row.pat row.mask n = true :=
      List.find?_some (p := fun r : AxrReadRow => axrNumberMatches r.pat r.mask n) hrow
    rcases axrReadRows_exec (List.mem_of_find?_eq_some hrow) with ⟨hmask, hx⟩ | ⟨hlow, hx⟩
    · cases axrNumberMatches_exact (hmask ▸ hmatch)
      exact hx id s
    · rw [hx, axrReg_of_matches hlow hmatch]

/-- Every AXR write of a number writes the register with that number (R90, R101). -/
theorem WritesAxr.exec_eq {i : Instr} {id : DevId} {n : Byte} {v : Word} (h : WritesAxr i id n v) (s : State) :
    exec i s = axrWriteOp id n (axrReg n) v s := by
  rcases h with rfl | ⟨row, hrow, rfl⟩
  · rfl
  · have hmatch : axrNumberMatches row.pat row.mask n = true :=
      List.find?_some (p := fun r : AxrWriteRow => axrNumberMatches r.pat r.mask n) hrow
    rcases axrWriteRows_exec (List.mem_of_find?_eq_some hrow) with ⟨hmask, hx⟩ | ⟨hlow, hx⟩
    · cases axrNumberMatches_exact (hmask ▸ hmatch)
      exact hx id v s
    · rw [hx, axrReg_of_matches hlow hmatch]

/-! ## The frame of the AXR operations -/

/-- What an AXR write that no event stops does: nothing to the machine, or its register's update at the device that answers
(R101, R102; 60_exceptions.md R151). -/
theorem axrWriteOp_cases {s t : State} {id : DevId} {n : Byte} {g : AxrReg} {v : Word}
    (h : axrWriteOp id n g v s = .next t) (ha : t.answer ≠ .stopped) :
    (∃ k a, t = (s.drawn k).withAnswer a) ∨
    ∃ d k w, s.dev? id = some d ∧ t = ((s.drawn k).setDev id (g.write w d)).withAnswer .done := by
  rcases TxOut.report_next h with ⟨e, u, ho, ht⟩ | ⟨u, -, rfl⟩
  · rcases hd : s.answering id with _ | d
    · rw [axrWriteOp_unanswered hd] at h
      exact .inl ⟨0, .done, by cases h; rfl⟩
    · have hp : (d.detects (.axrWrite n v)).all d.passes = true :=
        State.afterEvents_done ((State.axrWrite_answered hd n g v).symm.trans ho)
      cases hc : d.carriesOut (.axrWrite n v) with
      | false =>
        rw [axrWriteOp_prohibited hd hp hc] at h
        exact .inl ⟨0, .done, by cases h; rfl⟩
      | true =>
        by_cases hv : (v ^^^ (g.read s id d).1) &&& ~~~(g.writable d) = 0#16
        · rw [axrWriteOp_accepted hd hc hv] at h
          exact .inr ⟨d, _, _, (State.answering_dev hd).1, by cases h; rfl⟩
        · rw [axrWriteOp_discarded hd hc hv] at h
          exact .inl ⟨_, _, by cases h; rfl⟩
  · exact absurd rfl ha

/-- What the write of register `n` may change of a device: EHCR, the entry selected, EMVR or a device-specific AXR (R20,
R101). -/
def Device.WrittenTo (n : Byte) (d e : Device) : Prop :=
  e = { d with ehcr := e.ehcr, eht := e.eht, emvr := e.emvr, devAxr := e.devAxr } ∧
  (n ≠ 0x08#8 → e.ehcr = d.ehcr) ∧ (n ≠ 0x09#8 → e.eht = d.eht) ∧ (n ≠ 0x0A#8 → e.emvr = d.emvr) ∧
  (∀ c, c ≠ d.ehcr → e.flags c = d.flags c) ∧ ∀ j, j ≠ n.toNat → e.devAxr.get j = d.devAxr.get j

theorem Device.WrittenTo.refl (n : Byte) (d : Device) : d.WrittenTo n d :=
  ⟨rfl, fun _ => rfl, fun _ => rfl, fun _ => rfl, fun _ _ => rfl, fun _ _ => rfl⟩

theorem axrReg_writtenTo (n : Byte) (w : Word) (d : Device) : d.WrittenTo n ((axrReg n).write w d) := by
  rcases axrReg_cases n with ⟨r, hr⟩ | ⟨rfl, hr⟩ | ⟨rfl, hr⟩ | ⟨rfl, hr⟩ | hr
  all_goals rw [hr]
  · exact .refl n d
  · exact ⟨rfl, fun h => absurd rfl h, fun _ => rfl, fun _ => rfl, fun _ _ => rfl, fun _ _ => rfl⟩
  · exact ⟨rfl, fun _ => rfl, fun h => absurd rfl h, fun _ => rfl,
      fun c hc => (Device.flags_setFlags d d.ehcr c w).trans (if_neg hc), fun _ _ => rfl⟩
  · exact ⟨rfl, fun _ => rfl, fun _ => rfl, fun h => absurd rfl h, fun _ _ => rfl, fun _ _ => rfl⟩
  · simp only [regDevspec]
    split
    · exact ⟨rfl, fun _ => rfl, fun _ => rfl, fun _ => rfl, fun _ _ => rfl, fun j hj => Sparse.get_set_other _ w hj⟩
    · exact .refl n d
    · exact .refl n d

/-- Settles O29. -/
theorem axrFrame : Obligations.AxrFrame := by
  refine fun s t id n i hx ha => ⟨fun hr => ?_, fun v hw => ?_⟩
  · obtain ⟨w, k, hread⟩ := axrReadOp_eq s id (axrReg n).read
    rw [hr.exec_eq s, hread] at hx
    exact ⟨k, .word w, by cases hx; rfl⟩
  · rw [hw.exec_eq s] at hx
    rcases axrWriteOp_cases hx ha with ⟨k, a, rfl⟩ | ⟨d, k, w, hd, rfl⟩
    · exact ⟨rfl, rfl, rfl, rfl, rfl, rfl, rfl, fun _ _ => rfl, fun d hd => ⟨d, hd, Device.WrittenTo.refl n d⟩⟩
    · refine ⟨rfl, rfl, rfl, rfl, rfl, rfl, rfl, fun id' hid => State.dev?_setDev_other (s.drawn k) _ hid,
        fun d' hd' => ?_⟩
      cases hd.symm.trans hd'
      exact ⟨_, State.dev?_setDev_same (s := s.drawn k) hd, axrReg_writtenTo n w d⟩

end Sys2Proof.Machine
end

section
/-! SUPPORT. What drives the bus latch (10_state.md R27, R42; 20_memory.md R67). -/

namespace Sys2Proof.Machine

/-- An event that stops a transaction drives nothing (20_memory.md R67; log entry 9). -/
theorem StoppedBy.busLast {s t : State} {id : DevId} {d : Device} {tx : Tx} (h : StoppedBy s t id d tx) :
    t.busLast = s.busLast := by
  obtain ⟨c, -, -, k, u, -, ho, rfl⟩ := h
  obtain ⟨-, -, -, hbus, -⟩ := State.occur_stopped_frame ho
  exact hbus

/-- The read nobody answers, by the position of the SMS1 Bus bit (10_state.md R27). -/
theorem State.undrivenRead_eq (s : State) :
    s.undrivenRead = if s.poc.getLsbD (if s.hw.sms1Bit = .bit4 then 4 else 3) then s.busLast else 0xFF#8 := by
  rw [State.undrivenRead, sms1Index_eq]

theorem State.memWrite_done_busLast {s t : State} {a : Word} {b : Byte} (h : s.memWrite a b = .done () t) :
    t.busLast = b := by
  rcases State.memWrite_done h with hm | ⟨id, d, st, hm, hp⟩
  · rw [State.memWrite_unanswered b hm] at h
    cases h; rfl
  · rw [State.memWrite_passed hm hp] at h
    cases h
    split <;> rfl

theorem State.portWrite_done_busLast {s t : State} {p b : Byte} (h : s.portWrite p b = .done () t) : t.busLast = b := by
  rcases State.portWrite_done h with hm | ⟨id, d, hm, hp⟩
  · rw [State.portWrite_unanswered b hm] at h
    cases h; rfl
  · rw [State.portWrite_passed hm hp] at h
    cases h; rfl

theorem State.memRead_done_busLast {s t : State} {a : Word} {v : Byte} (hm : s.memTarget a ≠ none)
    (h : s.memRead a = .done v t) : t.busLast = v := by
  rcases State.memRead_done h with hn | ⟨id, d, st, ht, hp⟩
  · exact absurd hn hm
  · rw [State.memRead_passed ht hp] at h
    split at h <;> cases h <;> rfl

theorem State.portRead_done_busLast {s t : State} {p v : Byte} (hm : s.portTarget p ≠ none)
    (h : s.portRead p = .done v t) : t.busLast = v := by
  rcases State.portRead_done h with hn | ⟨id, d, ht, hp⟩
  · exact absurd hn hm
  · rw [State.portRead_passed ht hp] at h
    cases h; rfl

/-- An operation drives what its transaction drives. -/
theorem TxOut.report_busLast {α : Type} {o : TxOut α} {f : α → Answer} {t : State} {b : Byte} (h : o.report f = .next t)
    (hd : ∀ v u, o = .done v u → u.busLast = b) (hs : ∀ u, o = .stopped u → u.busLast = b) : t.busLast = b := by
  rcases TxOut.report_next h with ⟨v, u, ho, rfl⟩ | ⟨u, ho, rfl⟩
  · exact hd v u ho
  · exact hs u ho

/-- A read that reports a byte was performed. -/
theorem TxOut.done_of_byte {o : TxOut Byte} {t : State} {v : Byte} (h : o.report .byte = .next t) (ha : t.answer = .byte v) :
    ∃ u, o = .done v u ∧ t.busLast = u.busLast := by
  rcases TxOut.report_next h with ⟨v', u, ho, rfl⟩ | ⟨u, ho, rfl⟩
  · cases ha
    exact ⟨u, ho, rfl⟩
  · cases ha

/-- A read that reports that it was stopped was stopped. -/
theorem TxOut.stopped_of_report {o : TxOut Byte} {t : State} (h : o.report .byte = .next t) (ha : t.answer = .stopped) :
    ∃ u, o = .stopped u ∧ t.busLast = u.busLast := by
  rcases TxOut.report_next h with ⟨v', u, ho, rfl⟩ | ⟨u, ho, rfl⟩
  · cases ha
  · exact ⟨u, ho, rfl⟩

theorem axrWriteOp_busLast {s t : State} {id : DevId} {n : Byte} {g : AxrReg} {v : Word}
    (h : axrWriteOp id n g v s = .next t) : t.busLast = s.busLast := by
  by_cases ha : t.answer = .stopped
  · rcases TxOut.report_next h with ⟨e, u, -, rfl⟩ | ⟨u, ho, rfl⟩
    · cases e <;> cases ha
    · obtain ⟨d, -, hst⟩ := State.axrWrite_stopped ho
      exact hst.busLast
  · rcases axrWriteOp_cases h ha with ⟨k, a, rfl⟩ | ⟨d, k, w, -, rfl⟩ <;> rfl

/-- Settles O32. -/
theorem undrivenReadAndBusLatch : Obligations.UndrivenReadAndBusLatch := by
  intro s t a p b v
  refine ⟨fun hm => ?_, fun hm => ?_, fun hx => ?_, fun hx => ?_, fun hx hm ha => ?_, fun hx hm ha => ?_,
    fun hx ha => ?_, fun i id n w hi hx => ?_, fun hx => by cases hx; rfl⟩
  · rw [← s.undrivenRead_eq]
    exact congrArg (TxOut.report · Answer.byte) (State.memRead_unanswered hm)
  · rw [← s.undrivenRead_eq]
    exact congrArg (TxOut.report · Answer.byte) (State.portRead_unanswered hm)
  · exact TxOut.report_busLast hx (fun _ _ => State.memWrite_done_busLast) fun u ho => by
      obtain ⟨_, _, _, -, hst⟩ := State.memWrite_stopped ho
      exact hst.busLast
  · exact TxOut.report_busLast hx (fun _ _ => State.portWrite_done_busLast) fun u ho => by
      obtain ⟨_, _, -, hst⟩ := State.portWrite_stopped ho
      exact hst.busLast
  · obtain ⟨u, ho, hbus⟩ := TxOut.done_of_byte hx ha
    exact hbus.trans (State.memRead_done_busLast hm ho)
  · obtain ⟨u, ho, hbus⟩ := TxOut.done_of_byte hx ha
    exact hbus.trans (State.portRead_done_busLast hm ho)
  · rcases hx with hx | hx
    · obtain ⟨u, ho, hbus⟩ := TxOut.stopped_of_report hx ha
      obtain ⟨_, _, _, -, hst⟩ := State.memRead_stopped ho
      exact hbus.trans hst.busLast
    · obtain ⟨u, ho, hbus⟩ := TxOut.stopped_of_report hx ha
      obtain ⟨_, _, -, hst⟩ := State.portRead_stopped ho
      exact hbus.trans hst.busLast
  · rcases hi with hi | hi
    · obtain ⟨_, k, hread⟩ := axrReadOp_eq s id (axrReg n).read
      rw [hi.exec_eq s, hread] at hx
      cases hx; rfl
    · rw [hi.exec_eq s] at hx
      exact axrWriteOp_busLast hx

end Sys2Proof.Machine
end

section
/-! SUPPORT. The byte transactions and the AXR accesses as operations: what a device that answers stores, returns and drives,
and what an access that nobody answers does (20_memory.md R62 to R76; 41_axr_access.md R100, R101). -/

namespace Sys2Proof.Machine

/-! ## Accesses that nobody answers -/

/-- Settles O27: both answers depend on the response rule alone, not on the register. -/
theorem unansweredAxr : Obligations.UnansweredAxr := by
  intro s id n v i h
  have hnone : s.answering id = none := (State.answering_none_iff s id).2 h
  exact ⟨fun hi => (hi.exec_eq s).trans (axrReadOp_unanswered hnone _),
    fun hi => (hi.exec_eq s).trans (axrWriteOp_unanswered hnone n _ v)⟩

/-- Settles O33. -/
theorem unansweredWrites : Obligations.UnansweredWrites := fun _ _ _ b =>
  ⟨fun h => congrArg (TxOut.report · fun _ => .done) (State.memWrite_unanswered b h),
    fun h => congrArg (TxOut.report · fun _ => .done) (State.portWrite_unanswered b h)⟩

/-! ## Stored bytes -/

theorem State.storedByte_answered {s : State} {a : Word} {id : DevId} {d : Device} {st : StoreKind}
    (h : s.memTarget a = some (id, d, st)) :
    s.storedByte a =
      if d.carriesOut (.memRead a) && st != .unfixed then some (s.mem.byte (cellOf id a)) else none := by
  simp only [State.storedByte, h]

/-- The byte stored at an address: a device answers with a fixed store, and no event prevents the read (R62). -/
theorem State.storedByte_eq_some {s : State} {a : Word} {b : Byte} :
    s.storedByte a = some b ↔ ∃ id d st, s.memTarget a = some (id, d, st) ∧ d.carriesOut (.memRead a) = true ∧
      st ≠ .unfixed ∧ s.mem.byte (cellOf id a) = b := by
  constructor
  · intro h
    rcases hm : s.memTarget a with _ | ⟨id, d, st⟩
    · rw [State.storedByte, hm] at h; cases h
    · rw [State.storedByte_answered hm, Option.ite_none_right_eq_some, Bool.and_eq_true, bne_iff_ne] at h
      obtain ⟨⟨hc, hst⟩, hb⟩ := h
      exact ⟨id, d, st, rfl, hc, hst, Option.some.inj hb⟩
  · rintro ⟨id, d, st, hm, hc, hst, rfl⟩
    rw [State.storedByte_answered hm, hc, Bool.true_and, if_pos (bne_iff_ne.2 hst)]

/-- The operation of a read of a stored byte (R62, R67). -/
theorem exec_memrd_stored {s : State} {a : Word} {b : Byte} (h : s.storedByte a = some b) :
    exec (.memrd a) s = .next ((s.withBus b).withAnswer (.byte b)) :=
  congrArg (TxOut.report · Answer.byte) (State.memRead_stored h)

/-- A read that goes through without a stored byte is answered with a free one. -/
theorem State.memRead_open {s : State} {a : Word} {id : DevId} {d : Device} {st : StoreKind}
    (h : s.memTarget a = some (id, d, st)) (hp : (d.detects (.memRead a)).all d.passes = true)
    (hn : s.storedByte a = none) : s.memRead a = s.openRead := by
  rw [State.storedByte_answered h] at hn
  rw [State.memRead_passed h hp, if_neg fun hc => by rw [if_pos hc] at hn; cases hn]

/-- Settles O31. -/
theorem memReadAnswered : Obligations.MemReadAnswered := fun _ _ =>
  ⟨fun _ h => exec_memrd_stored h, fun _ _ _ hm hp hn =>
    ⟨_, rfl, congrArg (TxOut.report · Answer.byte) (State.memRead_open hm hp hn)⟩⟩

/-! ## Writes that are stored -/

theorem Device.carriesOut_of {d : Device} {tx : Tx} (hp : (d.detects tx).all d.passes = true)
    (hn : d.protects (d.detects tx) = false) : d.carriesOut tx = true := by
  rw [Device.carriesOut, hp, hn]; rfl

/-- The state after a write of `b` to address `a` of device `id` that is stored: the byte stands in its cell and was the last
one driven (R62, R67). -/
def State.stored (s : State) (id : DevId) (a : Word) (b : Byte) : State :=
  (s.withBus b).withMem (s.mem.write (cellOf id a) b)

theorem State.stored_byte (s : State) (id : DevId) (a : Word) (b : Byte) (cell : Nat) :
    (s.stored id a b).mem.byte cell = if cell = cellOf id a then b else s.mem.byte cell :=
  Memory.byte_write s.mem (cellOf id a) cell b

theorem State.memWrite_stored {s : State} {a : Word} {b : Byte} {id : DevId} {d : Device}
    (h : s.memTarget a = some (id, d, .ram)) (hc : d.carriesOut (.memWrite a b) = true) :
    s.memWrite a b = .done () (s.stored id a b) := by
  rw [State.memWrite_passed h (Device.passes_of_carriesOut hc), hc]; rfl

theorem exec_memwr_stored {s : State} {a : Word} {b : Byte} {id : DevId} {d : Device}
    (h : s.memTarget a = some (id, d, .ram)) (hc : d.carriesOut (.memWrite a b) = true) :
    exec (.memwr a b) s = .next ((s.stored id a b).withAnswer .done) :=
  congrArg (TxOut.report · fun _ => .done) (State.memWrite_stored h hc)

/-- Settles O34. -/
theorem memWriteStores : Obligations.MemWriteStores := fun s a b id _ hm hp hn =>
  ⟨_, exec_memwr_stored hm (Device.carriesOut_of hp hn), rfl, s.stored_byte id a b⟩

/-- After the write the address reads the byte written (R73). -/
theorem State.storedByte_stored_same {s : State} {a : Word} {id : DevId} {d : Device}
    (hm : s.memTarget a = some (id, d, .ram)) (hc : d.carriesOut (.memRead a) = true) (b : Byte) :
    (s.stored id a b).storedByte a = some b :=
  State.storedByte_eq_some.2 ⟨id, d, .ram, hm, hc, by decide, (s.stored_byte id a b _).trans (if_pos rfl)⟩

/-- Every other address reads what it read before (log entry 16). -/
theorem State.storedByte_stored_other {s : State} {a a' : Word} {b' : Byte} (hne : a' ≠ a)
    (h : s.storedByte a' = some b') (id : DevId) (b : Byte) : (s.stored id a b).storedByte a' = some b' := by
  obtain ⟨id', d, st, hm, hc, hst, hb⟩ := State.storedByte_eq_some.1 h
  have hcell : cellOf id' a' ≠ cellOf id a := fun q => hne (cellOf_inj.1 q).2
  exact State.storedByte_eq_some.2 ⟨id', d, st, hm, hc, hst, by rw [State.stored_byte, if_neg hcell, hb]⟩

/-- Settles O37. -/
theorem memReadAfterWrite : Obligations.MemReadAfterWrite := by
  intro s a b id d hm hp hn
  refine ⟨_, exec_memwr_stored hm (Device.carriesOut_of hp hn), fun b₀ h₀ => ?_, fun a' b' hne h' => ?_⟩
  · obtain ⟨id', d', st, hm', hc, -, -⟩ := State.storedByte_eq_some.1 h₀
    cases hm.symm.trans hm'
    exact ⟨_, exec_memrd_stored (State.storedByte_stored_same hm hc b), rfl⟩
  · exact ⟨_, exec_memrd_stored (State.storedByte_stored_other hne h' id b), rfl⟩

/-! ## Port transactions -/

/-- Settles O36. -/
theorem portTransactions : Obligations.PortTransactions := fun _ _ _ _ _ h =>
  ⟨fun hp => ⟨_, rfl, congrArg (TxOut.report · Answer.byte) (State.portRead_passed h hp)⟩,
    fun hp => congrArg (TxOut.report · fun _ => .done) (State.portWrite_passed h hp)⟩

/-! ## The frame of the byte transactions -/

/-- A memory read that is performed changes the bus latch and the count of free values at most (R62, R67). -/
theorem State.memRead_done_frame {s t : State} {a : Word} {v : Byte} (h : s.memRead a = .done v t) :
    ∃ b k, t = (s.withBus b).drawn k := by
  have hr : s.readsThrough a = true := by
    rcases State.memRead_done h with hm | ⟨id, d, st, hm, hp⟩
    · rw [State.readsThrough, hm]
    · rw [State.readsThrough, hm]; exact hp
  obtain ⟨v', b, k, hx⟩ := State.memRead_through hr
  rw [hx] at h
  cases h
  exact ⟨b, k, rfl⟩

theorem State.portRead_done_frame {s t : State} {p v : Byte} (h : s.portRead p = .done v t) :
    ∃ b k, t = (s.withBus b).drawn k := by
  rcases State.portRead_done h with hm | ⟨id, d, hm, hp⟩
  · rw [State.portRead_unanswered hm] at h
    cases h
    exact ⟨s.busLast, 0, rfl⟩
  · rw [State.portRead_passed hm hp] at h
    cases h
    exact ⟨_, 1, rfl⟩

theorem State.portWrite_done_frame {s t : State} {p b : Byte} {v : Unit} (h : s.portWrite p b = .done v t) :
    t = s.withBus b := by
  rcases State.portWrite_done h with hm | ⟨id, d, hm, hp⟩
  · rw [State.portWrite_unanswered b hm] at h
    cases h; rfl
  · rw [State.portWrite_passed hm hp] at h
    cases h; rfl

/-- A memory write that is performed drives its byte and stores it where a writable region answers and no event prohibits
it (R62, R67). -/
theorem State.memWrite_done_frame {s t : State} {a : Word} {b : Byte} {v : Unit} (h : s.memWrite a b = .done v t) :
    t = s.withBus b ∨ ∃ id d, s.memTarget a = some (id, d, .ram) ∧ t = s.stored id a b := by
  rcases State.memWrite_done h with hm | ⟨id, d, st, hm, hp⟩
  · rw [State.memWrite_unanswered b hm] at h
    cases h; exact .inl rfl
  · rw [State.memWrite_passed hm hp] at h
    cases h
    split
    · next hc =>
      rw [Bool.and_eq_true, beq_iff_eq] at hc
      exact .inr ⟨id, d, hc.2 ▸ hm, rfl⟩
    · exact .inl rfl

/-- An operation that was not stopped was performed. -/
theorem TxOut.done_of_not_stopped {α : Type} {o : TxOut α} {f : α → Answer} {t : State} (h : o.report f = .next t)
    (ha : t.answer ≠ .stopped) : ∃ v u, o = .done v u ∧ t = u.withAnswer (f v) := by
  rcases TxOut.report_next h with hd | ⟨u, -, rfl⟩
  · exact hd
  · exact absurd rfl ha

/-- Settles O40: of the four transactions a memory write alone changes more than the bus latch and the count of free
values. -/
theorem transactionFrame : Obligations.TransactionFrame := by
  intro s t a p b i hi hx ha
  simp only [List.mem_cons, List.not_mem_nil, or_false] at hi
  rcases hi with rfl | rfl | rfl | rfl
  all_goals obtain ⟨v, u, ho, rfl⟩ := TxOut.done_of_not_stopped hx ha
  · obtain ⟨c, k, rfl⟩ := State.memRead_done_frame ho
    exact ⟨rfl, rfl, rfl, rfl, rfl, rfl, fun _ _ => rfl⟩
  · rcases State.memWrite_done_frame ho with rfl | ⟨id, d, hm, rfl⟩
    · exact ⟨rfl, rfl, rfl, rfl, rfl, rfl, fun _ _ => rfl⟩
    · exact ⟨rfl, rfl, rfl, rfl, rfl, rfl, fun cell hcell =>
        (s.stored_byte id a b cell).trans (if_neg (hcell id d rfl hm))⟩
  · obtain ⟨c, k, rfl⟩ := State.portRead_done_frame ho
    exact ⟨rfl, rfl, rfl, rfl, rfl, rfl, fun _ _ => rfl⟩
  · cases State.portWrite_done_frame ho
    exact ⟨rfl, rfl, rfl, rfl, rfl, rfl, fun _ _ => rfl⟩

end Sys2Proof.Machine
end

section
/-! SUPPORT. The 16-bit access as its two byte accesses (20_memory.md R60, R68, R69; 60_exceptions.md R153). -/

namespace Sys2Proof.Machine

/-- A word write whose low byte is stored goes on with the high byte (R68). -/
theorem State.memWriteWord_stored {s : State} {a : Word} {v : Word} {id : DevId} {d : Device}
    (h : s.memTarget a = some (id, d, .ram)) (hc : d.carriesOut (.memWrite a (lowByte v)) = true) :
    s.memWriteWord a v = (s.stored id a (lowByte v)).memWrite (a + 1) (highByte v) := by
  rw [State.memWriteWord, State.memWrite_stored h hc]; rfl

/-- A word read of stored bytes; the high byte is driven last (R67, R68). -/
theorem State.memReadWord_stored {s : State} {a : Word} {lo hi : Byte} (hlo : s.storedByte a = some lo)
    (hhi : s.storedByte (a + 1) = some hi) : s.memReadWord a = .done (wordOf hi lo) ((s.withBus lo).withBus hi) := by
  have hhi' : (s.withBus lo).storedByte (a + 1) = some hi := hhi
  rw [State.memReadWord, State.memRead_stored hlo, TxOut.andThen, State.memRead_stored hhi']; rfl

/-- An event that stops a transaction leaves memory (60_exceptions.md R151, R154). -/
theorem StoppedBy.mem {s t : State} {id : DevId} {d : Device} {tx : Tx} (h : StoppedBy s t id d tx) : t.mem = s.mem := by
  obtain ⟨c, -, -, k, u, -, ho, rfl⟩ := h
  obtain ⟨-, -, -, -, hmem, -⟩ := State.occur_stopped_frame ho
  exact hmem

/-- A memory write some of whose codes does not pass is refused, or stopped with its byte driven and memory as it was. -/
theorem State.memWrite_blocked {s : State} {a : Word} {b : Byte} {id : DevId} {d : Device} {st : StoreKind}
    (h : s.memTarget a = some (id, d, st)) (hp : (d.detects (.memWrite a b)).all d.passes = false) :
    (∃ r, s.memWrite a b = .refused r) ∨ ∃ t, s.memWrite a b = .stopped t ∧ t.busLast = b ∧ t.mem = s.mem := by
  cases ho : s.memWrite a b with
  | done v t =>
    rw [State.memWrite_answered b h] at ho
    rw [State.afterEvents_done ho] at hp
    cases hp
  | refused r => exact .inl ⟨r, rfl⟩
  | stopped t =>
    obtain ⟨_, _, _, -, hst⟩ := State.memWrite_stopped ho
    exact .inr ⟨t, rfl, hst.busLast, hst.mem⟩

theorem word_add_one_ne (a : Word) : a + 1 ≠ a := by bv_omega

/-- Settles O38. -/
theorem wordAccessIsLittleEndian : Obligations.WordAccessIsLittleEndian := by
  rintro s a v _ _ id id' d d' rfl rfl hm hm' hc
  have hword := State.memWriteWord_stored hm hc
  have hne : cellOf id a ≠ cellOf id' (a + 1) := fun q => word_add_one_ne a (cellOf_inj.1 q).2.symm
  refine ⟨⟨_, exec_memwr_stored hm hc, rfl, hword⟩, fun hp => ?_, fun hc' => ?_⟩
  · rw [hword]
    refine (State.memWrite_blocked (s := s.stored id a (lowByte v)) hm' hp).imp_right ?_
    rintro ⟨t, ho, hbus, hmem⟩
    exact ⟨t, ho, hbus, fun cell => by rw [hmem]; exact s.stored_byte id a _ cell⟩
  · refine ⟨_, hword.trans (State.memWrite_stored (s := s.stored id a (lowByte v)) hm' hc'), rfl, ?_, ?_,
      fun cell h h' => ?_, fun hr hr' => ?_⟩
    · rw [State.stored_byte, if_neg hne, State.stored_byte, if_pos rfl]; rfl
    · rw [State.stored_byte, if_pos rfl]; rfl
    · rw [State.stored_byte, if_neg h', State.stored_byte, if_neg h]
    · have hlo := State.storedByte_stored_other (word_add_one_ne a).symm (State.storedByte_stored_same hm hr (lowByte v))
        id' (highByte v)
      have hhi := State.storedByte_stored_same (s := s.stored id a (lowByte v)) hm' hr' (highByte v)
      rw [State.memReadWord_stored hlo hhi, wordOf_bytes]
      exact ⟨_, rfl, rfl⟩

end Sys2Proof.Machine
end

section
/-! SUPPORT. What becomes of a transaction's action after its events (20_memory.md R70; 60_exceptions.md R141, R151). -/

namespace Sys2Proof.Machine

theorem Issues.answering {s : State} {i : Instr} {id : DevId} {d : Device} {tx : Tx} (h : Issues s i id d tx) :
    s.answering id = some d := by
  cases h with
  | memRead h | memWrite h => exact State.memTarget_dev h
  | portRead h | portWrite h => exact State.portTarget_dev h
  | axrWrite _ h => exact h

/-! ## Every code passes -/

/-- Where all codes pass, a protection event alone decides whether the action is carried out (R151). -/
theorem Device.carriesOut_of_passes {d : Device} {tx : Tx} (hp : (d.detects tx).all d.passes = true) :
    d.carriesOut tx = !d.protects (d.detects tx) := by
  rw [Device.carriesOut, hp, Bool.true_and]

/-- A memory write that is thrown out, or whose region keeps no writes, drives its byte alone (R67). -/
theorem State.memWrite_thrownOut {s : State} {a : Word} {b : Byte} {id : DevId} {d : Device} {st : StoreKind}
    (h : s.memTarget a = some (id, d, st)) (hp : (d.detects (.memWrite a b)).all d.passes = true)
    (hn : ¬(d.protects (d.detects (.memWrite a b)) = false ∧ st = .ram)) : s.memWrite a b = .done () (s.withBus b) := by
  rw [State.memWrite_passed h hp, Device.carriesOut_of_passes hp, if_neg]
  rwa [Bool.and_eq_true, Bool.not_eq_true', beq_iff_eq]

/-- An AXR write whose action is carried out is performed, whatever the discard rule says of it (41_axr_access.md R102). -/
theorem State.writeChecked_done (s : State) (id : DevId) (d : Device) (g : AxrReg) (v : Word) :
    ∃ e u, s.writeChecked id d g v = .done e u ∧ u.core = s.core := by
  by_cases hv : (v ^^^ (g.read s id d).1) &&& ~~~(g.writable d) = 0#16
  · exact ⟨_, _, State.writeChecked_accepted hv, rfl⟩
  · exact ⟨_, _, State.writeChecked_discarded hv, rfl⟩

/-- What a transaction all of whose codes pass leaves: the PROC's registers, where a protection event prohibits the action
also every device and memory, and of memory what the action does not store. -/
def Tx.Performed (s t : State) (id : DevId) (d : Device) (tx : Tx) : Prop :=
  t.answer ≠ .stopped ∧ t.core = s.core ∧
  (d.protects (d.detects tx) = true → t.devs = s.devs ∧ t.mem = s.mem ∧
    ∀ n v, tx = .axrWrite n v → t = s.withAnswer .done) ∧
  ∀ a b st, tx = .memWrite a b → s.memTarget a = some (id, d, st) →
    t.mem = if d.protects (d.detects tx) = false ∧ st = .ram then s.mem.write (cellOf id a) b else s.mem

/-- A read, and a port write, drives a byte and draws free values at most. -/
theorem Tx.Performed.of_bus (s : State) (id : DevId) (d : Device) {tx : Tx} {x : Answer} (hx : x ≠ .stopped)
    (hw : ∀ a b, tx ≠ .memWrite a b) (hv : ∀ n v, tx ≠ .axrWrite n v) (b : Byte) (k : Nat) :
    tx.Performed s (((s.withBus b).drawn k).withAnswer x) id d :=
  ⟨hx, rfl, fun _ => ⟨rfl, rfl, fun n v h => absurd h (hv n v)⟩, fun a b _ h _ => absurd h (hw a b)⟩

theorem exec_memwr_performed {s : State} {a : Word} {b : Byte} {id : DevId} {d : Device} {st : StoreKind}
    (h : s.memTarget a = some (id, d, st)) (hp : (d.detects (.memWrite a b)).all d.passes = true) :
    ∃ t, exec (.memwr a b) s = .next t ∧ (Tx.memWrite a b).Performed s t id d := by
  by_cases hram : d.protects (d.detects (.memWrite a b)) = false ∧ st = .ram
  · obtain ⟨hn, rfl⟩ := hram
    refine ⟨_, exec_memwr_stored h (Device.carriesOut_of hp hn), nofun, rfl, fun hq => ?_, fun a' b' st' he hm => ?_⟩
    · rw [hn] at hq; cases hq
    · cases he
      cases h.symm.trans hm
      rw [if_pos ⟨hn, rfl⟩]; rfl
  · refine ⟨_, congrArg (TxOut.report · fun _ => .done) (State.memWrite_thrownOut h hp hram), nofun, rfl,
      fun _ => ⟨rfl, rfl, nofun⟩, fun a' b' st' he hm => ?_⟩
    cases he
    cases h.symm.trans hm
    rw [if_neg hram]; rfl

theorem axrWriteOp_performed {s : State} {id : DevId} {d : Device} {n : Byte} {v : Word} (h : s.answering id = some d)
    (hp : (d.detects (.axrWrite n v)).all d.passes = true) :
    ∃ t, axrWriteOp id n (axrReg n) v s = .next t ∧ (Tx.axrWrite n v).Performed s t id d := by
  have hc := Device.carriesOut_of_passes hp
  cases hn : d.protects (d.detects (.axrWrite n v)) with
  | true =>
    rw [hn] at hc
    exact ⟨_, axrWriteOp_prohibited h hp hc _, nofun, rfl, fun _ => ⟨rfl, rfl, fun _ _ _ => rfl⟩, nofun⟩
  | false =>
    rw [hn] at hc
    obtain ⟨e, u, hu, hcore⟩ := s.writeChecked_done id d (axrReg n) v
    refine ⟨u.withAnswer (if e then .axrWriteError else .done), by rw [axrWriteOp_answered h hc, hu]; rfl, ?_, hcore,
      fun hq => ?_, nofun⟩
    · cases e <;> nofun
    · rw [hn] at hq; cases hq

/-- A transaction all of whose codes pass is performed (R151). -/
theorem Issues.performed {s : State} {i : Instr} {id : DevId} {d : Device} {tx : Tx} (h : Issues s i id d tx)
    (hp : (d.detects tx).all d.passes = true) : ∃ t, exec i s = .next t ∧ tx.Performed s t id d := by
  cases h with
  | memRead hm =>
    obtain ⟨v, b, k, hx⟩ := State.memRead_through (s := s) (by rw [State.readsThrough, hm]; exact hp)
    refine ⟨_, congrArg (TxOut.report · Answer.byte) hx, .of_bus s id d ?_ ?_ ?_ b k⟩ <;> nofun
  | memWrite hm => exact exec_memwr_performed hm hp
  | portRead hm =>
    refine ⟨_, congrArg (TxOut.report · Answer.byte) (State.portRead_passed hm hp), .of_bus s id d ?_ ?_ ?_ _ 1⟩ <;>
      nofun
  | @portWrite p b _ _ hm =>
    refine ⟨_, congrArg (TxOut.report · fun _ => .done) (State.portWrite_passed hm hp), .of_bus s id d ?_ ?_ ?_ b 0⟩ <;>
      nofun
  | axrWrite hi ha => rw [hi.exec_eq s]; exact axrWriteOp_performed ha hp

/-! ## Some code does not pass -/

/-- The operation of a transaction that is answered: a byte on the bus, the one of the state where it drives none, then the
events and what each of their endings goes on with (R141). -/
theorem Issues.exec_eq {s : State} {i : Instr} {id : DevId} {d : Device} {tx : Tx} (h : Issues s i id d tx) :
    ∃ (α : Type) (b : Byte) (f g : State → TxOut α) (r : α → Answer),
      exec i s = ((s.withBus b).afterEvents id d tx f g).report r := by
  cases h with
  | memRead hm =>
    exact ⟨_, s.busLast, _, _, _, congrArg (TxOut.report · Answer.byte) (State.memRead_answered hm)⟩
  | memWrite hm => exact ⟨_, _, _, _, _, congrArg (TxOut.report · fun _ => .done) (State.memWrite_answered _ hm)⟩
  | portRead hm =>
    exact ⟨_, s.busLast, _, _, _, congrArg (TxOut.report · Answer.byte) (State.portRead_answered hm)⟩
  | portWrite hm => exact ⟨_, _, _, _, _, congrArg (TxOut.report · fun _ => .done) (State.portWrite_answered _ hm)⟩
  | axrWrite hi ha =>
    rw [hi.exec_eq s, axrWriteOp, State.axrWrite_answered ha]
    exact ⟨_, s.busLast, _, _, _, rfl⟩

section
variable {s : State} {id : DevId} {d : Device} {c : Byte} {k : EventKind} {a x : Word} (hd : s.dev? id = some d)
  (hk : eventKind d.spec.kinds c = some k)
include hd hk

/-- The event of a code performed by itself (R142). -/
theorem exec_event_occurs {r : OccurResult} {u : State} (ho : s.occur k id d c a x = .ok (r, u)) :
    exec (.event id c a x) s = .next (u.withAnswer (.event r)) := by
  simp only [exec, execEvent, hd, hk, ho]

theorem exec_event_refused {e : Refusal} (ho : s.occur k id d c a x = .error e) :
    exec (.event id c a x) s = .refused e := by
  simp only [exec, execEvent, hd, hk, ho]

end

/-- The address and data that a transaction's event takes are those its trigger may record (R144). -/
theorem Tx.records_event (tx : Tx) (n : Nat) : tx.records (tx.eventAddr n) (tx.eventData (n + 1)) := by
  cases tx with
  | memRead a => rfl
  | memWrite a b => exact ⟨rfl, lowByte_wordOf _ b⟩
  | portRead p => exact lowByte_wordOf _ p
  | portWrite p b => exact ⟨lowByte_wordOf _ p, lowByte_wordOf _ b⟩
  | axrWrite n v => trivial

/-- A transaction some of whose codes does not pass ends as the event of such a code, performed by itself, does: stopped or
refused (R151, R153). -/
theorem Issues.blocked {s : State} {i : Instr} {id : DevId} {d : Device} {tx : Tx} (h : Issues s i id d tx)
    (hp : (d.detects tx).all d.passes = false) :
    ∃ c ∈ d.detects tx, d.passes c = false ∧ ∃ a x, tx.records a x ∧
      ((∃ (u : State) (b : Byte), exec (.event id c a x) s = .next (u.withAnswer (.event .stopped)) ∧
          exec i s = .next (((u.withBus b).drawn 2).withAnswer .stopped) ∧ u.mem = s.mem) ∨
        ∃ r, exec (.event id c a x) s = .refused r ∧ exec i s = .refused r) := by
  obtain ⟨α, b, f, g, r, hx⟩ := h.exec_eq
  obtain ⟨c, hc, hpass, k, hk, he⟩ := State.afterEvents_blocked (s.withBus b) id f g hp
  rw [State.occur_withBus] at he
  have hd := (State.answering_dev h.answering).1
  refine ⟨c, hc, hpass, tx.eventAddr s.draws, tx.eventData (s.draws + 1), tx.records_event s.draws, ?_⟩
  rw [hx, he, State.withBus_draws]
  rcases State.occur_blocked (s := s) (id := id) (tx.eventAddr s.draws) (tx.eventData (s.draws + 1)) hk hpass with
    ⟨u, hu⟩ | ⟨e, hu⟩
  · obtain ⟨-, -, -, -, hmem, -⟩ := State.occur_stopped_frame hu
    exact .inl ⟨u, b, exec_event_occurs hd hk hu, by rw [hu]; rfl, hmem⟩
  · exact .inr ⟨e, exec_event_refused hd hk hu, by rw [hu]; rfl⟩

/-- Settles O39. -/
theorem actionAfterEvents : Obligations.ActionAfterEvents := by
  refine fun s i id => ⟨fun n hr => ?_, fun d tx h => ⟨fun hp => h.performed hp, ?_⟩⟩
  · obtain ⟨v, k, hx⟩ := axrReadOp_eq s id (axrReg n).read
    exact ⟨v, k, (hr.exec_eq s).trans hx⟩
  · rintro ⟨c₀, hc₀, hp₀⟩
    have hp : (d.detects tx).all d.passes = false := List.all_eq_false.2 ⟨c₀, hc₀, by rw [hp₀]; decide⟩
    obtain ⟨c, hc, hpass, a, x, hrec, hend⟩ := h.blocked hp
    refine ⟨c, hc, hpass, a, x, hrec, ?_⟩
    rcases hend with ⟨u, b, hu, hx, hmem⟩ | ⟨r, hu, hx⟩
    · rw [hu]
      exact ⟨rfl, _, hx, rfl, rfl, rfl, hmem⟩
    · rw [hu]
      exact hx

end Sys2Proof.Machine
end

section
/-! SUPPORT. A system in which every device is shut down (20_memory.md R66; 40_proc_instructions.md R96; 60_exceptions.md
R148, R165). -/

namespace Sys2Proof.Machine

/-- A running PROC is neither suspended nor shut down (40_proc_instructions.md R96). -/
theorem State.runningProc_dev {s : State} {d : Device} (h : s.runningProc = some d) :
    s.dev? s.hw.procId = some d ∧ d.susp = false ∧ d.shut = false := by
  unfold State.runningProc at h
  split at h
  · next e he =>
    split at h
    · next hr => cases h; exact ⟨he, by simpa using hr⟩
    · cases h
  · cases h

section
variable {s : State} (h : ∀ d, some d ∈ s.devs → d.shut = true)
include h

theorem State.answering_of_shut (id : DevId) : s.answering id = none :=
  (s.answering_none_iff id).2 fun d hd => .inr (h d (State.mem_of_dev? hd))

theorem State.memTarget_of_shut (a : Word) : s.memTarget a = none := by
  rcases hm : s.memTarget a with _ | ⟨id, d, st⟩
  · rfl
  · exact absurd ((State.answering_of_shut h id).symm.trans (State.memTarget_dev hm)) nofun

theorem State.portTarget_of_shut (p : Byte) : s.portTarget p = none := by
  rcases hm : s.portTarget p with _ | ⟨id, d⟩
  · rfl
  · exact absurd ((State.answering_of_shut h id).symm.trans (State.portTarget_dev hm)) nofun

theorem State.runningProc_of_shut : s.runningProc = none := by
  rcases hr : s.runningProc with _ | d
  · rfl
  · obtain ⟨hd, -, hn⟩ := State.runningProc_dev hr
    rw [h d (State.mem_of_dev? hd)] at hn; cases hn

/-- A suspension ends nowhere: RESUME is enabled in a system without devices alone (43_external_debugger.md R135). -/
theorem State.resumeAll_of_shut (hr : s.resumable = true) : s.resumeAll = s := by
  have hnone : ∀ o ∈ s.devs, o = none := fun o ho => by
    rcases o with _ | d
    · rfl
    · have hd := (State.everyDev_iff _ _).1 hr d ho
      rw [h d ho, Bool.not_true, Bool.and_false] at hd; cases hd
  have hmap : s.devs.map (Option.map fun d => { d with susp := false }) = s.devs :=
    (List.map_congr_left fun o ho => by cases hnone o ho; rfl).trans (List.map_id s.devs)
  show { s with devs := s.devs.map (Option.map fun d => { d with susp := false }) } = s
  rw [hmap]

/-- What an operation other than Power-On and EVENT does: nothing but its report and the count of free values; a write drives
its byte; CLEARSILENTFLAGS clears (R66, R67, R96, R125). -/
theorem exec_of_shut {t : State} {i : Instr} (hx : exec i s = .next t) (hp : ∀ cfg, i ≠ .poweron cfg)
    (he : ∀ id c a x, i ≠ .event id c a x) :
    (i ≠ .sysmsgClearsilentflags ∧ ∃ k r, t = (s.drawn k).withAnswer r) ∨
    (((∃ a b, i = .memwr a b) ∨ ∃ p b, i = .portwr p b) ∧ ∃ b, t = (s.withBus b).withAnswer .done) ∨
    (i = .sysmsgClearsilentflags ∧ t = s.clearSilentFlags.withAnswer .done) := by
  have hread : ∀ id r, axrReadOp id r s = .next t → ∃ k r, t = (s.drawn k).withAnswer r := fun id r hx => by
    rw [axrReadOp_unanswered (State.answering_of_shut h id)] at hx
    cases hx; exact ⟨_, _, rfl⟩
  have hwrite : ∀ id n g v, axrWriteOp id n g v s = .next t → ∃ k r, t = (s.drawn k).withAnswer r := fun id n g v hx => by
    rw [axrWriteOp_unanswered (State.answering_of_shut h id)] at hx
    cases hx; exact ⟨0, _, rfl⟩
  cases i with
  | memrd a =>
    rw [exec, execMemrd, State.memRead_unanswered (State.memTarget_of_shut h a)] at hx
    cases hx; exact .inl ⟨nofun, 0, _, rfl⟩
  | memwr a b =>
    rw [exec, execMemwr, State.memWrite_unanswered b (State.memTarget_of_shut h a)] at hx
    cases hx; exact .inr (.inl ⟨.inl ⟨a, b, rfl⟩, b, rfl⟩)
  | portrd p =>
    rw [exec, execPortrd, State.portRead_unanswered (State.portTarget_of_shut h p)] at hx
    cases hx; exact .inl ⟨nofun, 0, _, rfl⟩
  | portwr p b =>
    rw [exec, execPortwr, State.portWrite_unanswered b (State.portTarget_of_shut h p)] at hx
    cases hx; exact .inr (.inl ⟨.inr ⟨p, b, rfl⟩, b, rfl⟩)
  | sysmsgClearsilentflags => cases hx; exact .inr (.inr ⟨rfl, rfl⟩)
  | event id c a x => exact absurd rfl (he id c a x)
  | poweron cfg => exact absurd rfl (hp cfg)
  | procstep =>
    rw [exec, execProcstep, State.runningProc_of_shut h] at hx
    cases hx; exact .inl ⟨nofun, 0, _, rfl⟩
  | ldHlNn nn =>
    rw [exec, execLdHlNn, State.runningProc_of_shut h] at hx
    cases hx; exact .inl ⟨nofun, 0, _, rfl⟩
  | andAB =>
    rw [exec, execAndAB, State.runningProc_of_shut h] at hx
    cases hx; exact .inl ⟨nofun, 0, _, rfl⟩
  | resume =>
    rcases exec_resume hx with ⟨hr, rfl⟩ | ⟨-, rfl⟩
    · rw [State.resumeAll_of_shut h hr]; exact .inl ⟨nofun, 0, _, rfl⟩
    · exact .inl ⟨nofun, 0, _, rfl⟩
  | axrrd | axrrdDir | axrrdPocr | axrrdDmr | axrrdDvr | axrrdDsr | axrrdReserved05 | axrrdReserved06 | axrrdReserved07
  | axrrdEhcr | axrrdEhfr | axrrdEmvr | axrrdReserved0B | axrrdDecr | axrrdDear | axrrdDedr | axrrdDefr | axrrdDevspec10
  | axrrdDevspec20 | axrrdDevspec40 | axrrdDevspec80 => exact .inl ⟨nofun, hread _ _ hx⟩
  | axrwr | axrwrDir | axrwrPocr | axrwrDmr | axrwrDvr | axrwrDsr | axrwrReserved05 | axrwrReserved06 | axrwrReserved07
  | axrwrEhcr | axrwrEhfr | axrwrEmvr | axrwrReserved0B | axrwrDecr | axrwrDear | axrwrDedr | axrwrDefr | axrwrDevspec10
  | axrwrDevspec20 | axrwrDevspec40 | axrwrDevspec80 => exact .inl ⟨nofun, hwrite _ _ _ _ hx⟩

end

/-- Settles O53. -/
theorem shutdownSystemIsDead : Obligations.ShutdownSystemIsDead := by
  intro s t i h hx hp he
  rcases exec_of_shut h hx hp he with ⟨hi, k, r, rfl⟩ | ⟨hi, b, rfl⟩ | ⟨rfl, rfl⟩
  · exact ⟨rfl, rfl, rfl, rfl, rfl, (if_neg hi).symm, fun _ _ => rfl⟩
  · have hn : i ≠ .sysmsgClearsilentflags := by rcases hi with ⟨a, b, rfl⟩ | ⟨p, b, rfl⟩ <;> nofun
    refine ⟨rfl, rfl, rfl, rfl, rfl, (if_neg hn).symm, fun hm hq => ?_⟩
    rcases hi with ⟨a, b, rfl⟩ | ⟨p, b, rfl⟩
    · exact absurd rfl (hm a b)
    · exact absurd rfl (hq p b)
  · exact ⟨rfl, rfl, rfl, rfl, rfl, (if_pos rfl).symm, fun _ _ => rfl⟩

end Sys2Proof.Machine
end

section
/-! SUPPORT. A step of the PROC on the instruction stored at its pc (40_proc_instructions.md R92 to R94, R99). -/

namespace Sys2Proof.Machine

/-! ## An instruction, transaction by transaction -/

/-- An instruction goes on from wherever its program's run does. -/
theorem State.instruction_congr {s t : State} {p q : CoreProg} (h : runProg p s = runProg q t) :
    s.instruction p = t.instruction q := by
  rw [State.instruction, State.instruction, h]

theorem State.instruction_memRd {s : State} {a : Word} {b : Byte} (h : s.storedByte a = some b) (k : Byte → CoreProg) :
    s.instruction (.memRd a k) = (s.withBus b).instruction (k b) :=
  State.instruction_congr (by rw [runProg, State.memRead_stored h]; rfl)

theorem State.instruction_memWr {s : State} {a : Word} {b : Byte} {id : DevId} {d : Device}
    (h : s.memTarget a = some (id, d, .ram)) (hc : d.carriesOut (.memWrite a b) = true) (k : CoreProg) :
    s.instruction (.memWr a b k) = (s.stored id a b).instruction k :=
  State.instruction_congr (by rw [runProg, State.memWrite_stored h hc]; rfl)

/-- The devices after an instruction that completes: the silent flags are cleared if any was set (42_system_messages.md
R127). -/
def State.devsCompleted (s : State) : List (Option Device) :=
  if s.someDev Device.anySilent then s.clearSilentFlags.devs else s.devs

/-- An instruction that has come to its end (R92 step 4). -/
theorem State.instruction_complete (s : State) (c : Core) :
    s.instruction (.complete c) = .next { s with core := c, devs := s.devsCompleted, answer := .completed } := by
  show Host.Outcome.next ((s.complete c).withAnswer .completed) = _
  have hs : (s.withCore c).someDev Device.anySilent = s.someDev Device.anySilent := rfl
  rw [State.complete, State.devsCompleted, hs]
  split <;> rfl

/-! ## The fetch of the opcode -/

/-- Every instruction starts with a fetch (R92). -/
theorem fetchLimit_pos (rows : List OpcodeRow) : 0 < fetchLimit rows :=
  List.foldlRecOn (motive := fun n => 0 < n) rows _ Nat.one_pos fun _ hn _ _ => lt_max_of_lt_left hn

/-- A step whose stored opcode is a row of one byte executes that row (R92, R99). -/
theorem exec_procstep_row {s : State} {d : Device} {op : Byte} {row : CoreOp} (hr : s.runningProc = some d)
    (hop : s.storedByte s.core.pc = some op)
    (hrow : (s.hw.opcodes.find? fun r => r.bytes == [op]) = some ⟨[op], row⟩) :
    exec .procstep s = (s.withBus op).instruction (opProg row 1 s.core) := by
  obtain ⟨n, hn⟩ := Nat.exists_eq_succ_of_ne_zero (fetchLimit_pos s.hw.opcodes).ne'
  have hpc : s.storedByte (s.core.pc + BitVec.ofNat 16 ([] : List Byte).length) = some op :=
    (congrArg s.storedByte (BitVec.add_zero _)).trans hop
  rw [(Executes.procstep hr).exec_eq, hn, fetchProg, State.instruction_memRd hpc]
  simp only [List.nil_append, hrow]
  rfl

/-! ## The rows of the table -/

theorem pc_add_one_add_one (pc : Word) : pc + 1 + 1 = pc + 2 := BitVec.add_assoc pc 1 1

theorem pc_add_one_add_two (pc : Word) : pc + 1 + 2 = pc + 3 := BitVec.add_assoc pc 1 2

/-- The operand bytes of a row, fetched low byte first (R93). -/
theorem State.instruction_operands {s : State} {pc : Word} {lo hi : Byte} (hlo : s.storedByte (pc + 1) = some lo)
    (hhi : s.storedByte (pc + 2) = some hi) (k : Byte → Byte → CoreProg) :
    s.instruction (.memRd (pc + 1) fun l => .memRd (pc + 1 + 1) fun h => k l h) =
      (s.withBus hi).instruction (k lo hi) := by
  have hhi' : (s.withBus lo).storedByte (pc + 1 + 1) = some hi := by rw [pc_add_one_add_one]; exact hhi
  rw [State.instruction_memRd hlo, State.instruction_memRd hhi']; rfl

section
variable {s : State} {d : Device} {op lo hi : Byte} (hr : s.runningProc = some d)
  (hop : s.storedByte s.core.pc = some op)
include hr hop

/-- `LD HL, nn` as the operation, where its bytes are stored at the pc (R93). -/
theorem exec_ldHlNn_stored (hlo : s.storedByte (s.core.pc + 1) = some lo) (hhi : s.storedByte (s.core.pc + 2) = some hi)
    (nn : Word) : exec (.ldHlNn nn) s = (s.withBus hi).instruction (.complete (Core.loadHl s.core nn 3)) := by
  rw [(Executes.ldHlNn hr nn).exec_eq, ldHlNnProg, State.instruction_memRd hop]
  rw [State.instruction_memRd (s := s.withBus op) hlo, State.instruction_memRd (s := (s.withBus op).withBus lo) hhi]
  rfl

/-- The row of `LD HL, nn` does what the operation does (R93). -/
theorem exec_procstep_ldHlNn (hrow : (s.hw.opcodes.find? fun r => r.bytes == [op]) = some ⟨[op], .ldHlNn⟩)
    (hlo : s.storedByte (s.core.pc + 1) = some lo) (hhi : s.storedByte (s.core.pc + 2) = some hi) :
    exec .procstep s = exec (.ldHlNn (hi ++ lo)) s := by
  rw [exec_procstep_row hr hop hrow, exec_ldHlNn_stored hr hop hlo hhi, opProg,
    State.instruction_operands (s := s.withBus op) hlo hhi, wordOf_eq]
  rfl

/-- The row of `AND A, B` does what the operation does (R94). -/
theorem exec_procstep_andAB (hrow : (s.hw.opcodes.find? fun r => r.bytes == [op]) = some ⟨[op], .andAB⟩) :
    exec .procstep s = exec .andAB s := by
  rw [exec_procstep_row hr hop hrow, (Executes.andAB hr).exec_eq, andABProg, State.instruction_memRd hop]
  rfl

/-- The row of `LD (nn), A`, where the store is carried out (log entry 13). -/
theorem exec_procstep_ldNnA (hrow : (s.hw.opcodes.find? fun r => r.bytes == [op]) = some ⟨[op], .ldNnA⟩)
    (hlo : s.storedByte (s.core.pc + 1) = some lo) (hhi : s.storedByte (s.core.pc + 2) = some hi) {id : DevId} {e : Device}
    (hm : s.memTarget (hi ++ lo) = some (id, e, .ram)) (hc : e.carriesOut (.memWrite (hi ++ lo) s.core.a) = true) :
    exec .procstep s =
      (s.stored id (hi ++ lo) s.core.a).instruction (.complete { s.core with pc := s.core.pc + 3 }) := by
  rw [exec_procstep_row hr hop hrow, opProg, State.instruction_operands (s := s.withBus op) hlo hhi, wordOf_eq,
    State.instruction_memWr (s := (s.withBus op).withBus hi) hm hc, pc_add_one_add_two]
  rfl

end

/-- Settles O57: the opcode's fetch leads to the row, whose transactions return the bytes stored after it. -/
theorem procstepExecutesStoredInstruction : Obligations.ProcstepExecutesStoredInstruction := by
  intro s d op lo hi row devs hr hop hrow hdevs
  obtain rfl : devs = s.devsCompleted := hdevs
  have hstep := exec_procstep_row hr hop hrow
  refine ⟨?_, ?_, ?_, ?_, ?_, ?_⟩
  case refine_1 =>
    rintro rfl hlo hhi
    have hx := exec_ldHlNn_stored hr hop hlo hhi (hi ++ lo)
    rw [State.instruction_complete] at hx
    exact ⟨_, (exec_procstep_ldHlNn hr hop hrow hlo hhi).trans hx, hx⟩
  case refine_2 =>
    rintro rfl
    have hx := (Executes.andAB hr).exec_eq.trans (State.instruction_memRd hop _)
    exact ⟨_, (exec_procstep_andAB hr hop hrow).trans hx, hx⟩
  case refine_3 =>
    rintro rfl
    rw [hstep, opProg, State.instruction_complete]
    rfl
  case refine_4 | refine_5 =>
    rintro rfl hlo
    rw [hstep, opProg, State.instruction_memRd (s := s.withBus op) hlo, State.instruction_complete, pc_add_one_add_one]
    rfl
  case refine_6 =>
    rintro rfl hlo hhi id e hm hc
    exact ⟨_, (exec_procstep_ldNnA hr hop hrow hlo hhi hm hc).trans (State.instruction_complete _ _), rfl,
      s.stored_byte id (hi ++ lo) s.core.a⟩

end Sys2Proof.Machine
end

section
/-! SUPPORT. The record of an operation and the decoder are inverse to each other; the rows an AXR number selects
(30_encoding.md R82, R83, R90; log entry 5). -/

namespace Sys2Proof

open Machine

/-! ## The rows of the opcode table -/

/-- Of rows no two of which match alike, the one that matches is the one found. -/
theorem find?_eq_of_mem {α : Type} {p : α → Bool} {l : List α} {x : α}
    (hl : l.Pairwise fun a b => ¬(p a = true ∧ p b = true)) (hx : x ∈ l) (hp : p x = true) : l.find? p = some x := by
  obtain ⟨as, bs, rfl⟩ := List.append_of_mem hx
  obtain ⟨-, -, has⟩ := List.pairwise_append.1 hl
  exact List.find?_eq_some_iff_append.2 ⟨hp, as, bs, rfl, fun a ha => by
    simpa [hp] using has a ha x List.mem_cons_self⟩

/-- Patterns that differ in a bit both masks look at match no common number. -/
theorem axrNumberMatches_disjoint {p m q k n : Byte} (h : (p ^^^ q) &&& (m &&& k) ≠ 0#8) :
    ¬(axrNumberMatches p m n = true ∧ axrNumberMatches q k n = true) := by
  rintro ⟨hp, hq⟩
  obtain rfl : n &&& m = p := eq_of_beq hp
  obtain rfl : n &&& k = q := eq_of_beq hq
  refine h (BitVec.eq_of_getElem_eq fun i hi => ?_)
  simp only [BitVec.getElem_and, BitVec.getElem_xor, BitVec.getElem_zero]
  cases n[i] <;> cases m[i] <;> cases k[i] <;> rfl

/-- The read row that stands at a place of the table is the one its numbers select (R90). -/
theorem axrReadRow_instr {j : Nat} {row : AxrReadRow} {n : Byte} (h : axrReadRows[j]? = some row)
    (hn : axrNumberMatches row.pat row.mask n = true) (id : DevId) :
    (axrReadRow n).map (fun r => r.instr id n) = some (row.instr id n) := by
  have hrows : axrReadRows.Pairwise fun r r' => (r.pat ^^^ r'.pat) &&& (r.mask &&& r'.mask) ≠ 0#8 := by decide
  rw [axrReadRow, find?_eq_of_mem (hrows.imp axrNumberMatches_disjoint) (List.mem_of_getElem? h) hn, Option.map_some]

/-- The write row likewise. -/
theorem axrWriteRow_instr {j : Nat} {row : AxrWriteRow} {n : Byte} (h : axrWriteRows[j]? = some row)
    (hn : axrNumberMatches row.pat row.mask n = true) (id : DevId) (v : Word) :
    (axrWriteRow n).map (fun r => r.instr id n v) = some (row.instr id n v) := by
  have hrows : axrWriteRows.Pairwise fun r r' => (r.pat ^^^ r'.pat) &&& (r.mask &&& r'.mask) ≠ 0#8 := by decide
  rw [axrWriteRow, find?_eq_of_mem (hrows.imp axrNumberMatches_disjoint) (List.mem_of_getElem? h) hn, Option.map_some]

/-- Every AXR number selects a row of each direction (R90). -/
theorem axrRow_exists (n : Byte) : (∃ row, axrReadRow n = some row) ∧ ∃ row, axrWriteRow n = some row := by
  simp only [← Option.isSome_iff_exists]
  revert n
  decide

/-- The read row an AXR number selects gives a well-formed operation, whose record holds that number (R90). -/
theorem axrReadRow_record {row : AxrReadRow} {n : Byte} (h : axrReadRow n = some row) (id : DevId) :
    (row.instr id n).wf = true ∧ (row.instr id n).record = axrRecord 0#8 n id 0#16 := by
  have hn : axrNumberMatches row.pat row.mask n = true :=
    List.find?_some (p := fun r : AxrReadRow => axrNumberMatches r.pat r.mask n) h
  have hmem := List.mem_of_find?_eq_some h
  simp only [axrReadRows, List.cons_append, List.nil_append, List.mem_cons, List.not_mem_nil, or_false] at hmem
  rcases hmem with rfl | rfl | rfl | rfl | rfl | rfl | rfl | rfl | rfl | rfl | rfl | rfl | rfl | rfl | rfl | rfl | hmem
  on_goal 17 => rcases hmem with rfl | rfl | rfl | rfl <;> exact ⟨hn, rfl⟩
  all_goals cases axrNumberMatches_exact hn; exact ⟨rfl, rfl⟩

/-- The write row likewise. -/
theorem axrWriteRow_record {row : AxrWriteRow} {n : Byte} (h : axrWriteRow n = some row) (id : DevId) (v : Word) :
    (row.instr id n v).wf = true ∧ (row.instr id n v).record = axrRecord 1#8 n id v := by
  have hn : axrNumberMatches row.pat row.mask n = true :=
    List.find?_some (p := fun r : AxrWriteRow => axrNumberMatches r.pat r.mask n) h
  have hmem := List.mem_of_find?_eq_some h
  simp only [axrWriteRows, List.cons_append, List.nil_append, List.mem_cons, List.not_mem_nil, or_false] at hmem
  rcases hmem with rfl | rfl | rfl | rfl | rfl | rfl | rfl | rfl | rfl | rfl | rfl | rfl | rfl | rfl | rfl | rfl | hmem
  on_goal 17 => rcases hmem with rfl | rfl | rfl | rfl <;> exact ⟨hn, rfl⟩
  all_goals cases axrNumberMatches_exact hn; exact ⟨rfl, rfl⟩

/-- Settles O3: each selected row is an AXR operation of its number, and all of those do the same. -/
theorem genericAxrIsTheSelectedRow : Obligations.GenericAxrIsTheSelectedRow := by
  intro s id n
  obtain ⟨⟨r, hr⟩, w, hw⟩ := axrRow_exists n
  exact ⟨⟨r, hr, (ReadsAxr.exec_eq (.inr ⟨r, hr, rfl⟩) s).symm⟩,
    fun v => ⟨w, hw, (WritesAxr.exec_eq (.inr ⟨w, hw, rfl⟩) s).symm⟩⟩

/-! ## The fields of a record -/

/-- A vector is its low `n` bits where no other bit is set. -/
theorem setWidth_extractLsb'_iff {w : Nat} (x : BitVec w) (n : Nat) :
    (x.extractLsb' 0 n).setWidth w = x ↔ x &&& (BitVec.allOnes w <<< n) = 0#w := by
  rw [BitVec.eq_of_getLsbD_eq_iff, BitVec.eq_of_getLsbD_eq_iff]
  refine forall_congr' fun i => imp_congr_right fun hi => ?_
  by_cases hn : i < n
  · simp [hi, hn]
  · rw [BitVec.getLsbD_setWidth]
    simp [hi, hn]

/-- A byte is a Device ID where bits 7:4 are 0 (R83). -/
theorem devIdAsByte_devIdOf_iff (b : Byte) : devIdAsByte (devIdOf b) = b ↔ b &&& 0xF0#8 = 0#8 :=
  setWidth_extractLsb'_iff b 4

/-- A word is a power-on configuration where bits 15:12 are 0 (log entry 5). -/
theorem setWidth_config_iff (v : Word) : (v.extractLsb' 0 12).setWidth 16 = v ↔ v &&& 0xF000#16 = 0#16 :=
  setWidth_extractLsb'_iff v 12

@[simp] theorem devIdAsByte_high (id : DevId) : devIdAsByte id &&& 0xF0#8 = 0#8 := by
  rw [← devIdAsByte_devIdOf_iff, devIdOf_devIdAsByte]

/-- A word whose high byte is 0 is its low byte, a port number (R83). -/
theorem byteAsWord_lowByte {w : Word} (h : highByte w = 0#8) : byteAsWord (lowByte w) = w := by
  conv_rhs => rw [← wordOf_bytes w, h]
  simp [wordOf, byteAsWord]

/-- The record of operation `op` with the fields it uses, every other field 0. -/
def OpRecord.masked (r : OpRecord) (op : Byte) (sel id c a v : Bool) : OpRecord where
  sel := bif sel then r.sel else 0#8
  op := op
  id := bif id then devIdAsByte (devIdOf r.id) else 0#8
  c := bif c then r.c else 0#8
  a := bif a then r.a else 0#16
  v := bif v then r.v else 0#16

theorem or_eq_zero_iff {w : Nat} (b : Bool) (x : BitVec w) : (b || x == 0#w) = true ↔ x = bif b then x else 0#w := by
  cases b <;> simp

/-- A record whose unused fields are 0 is the record of its operation with the fields it uses. -/
theorem OpRecord.eq_masked {r : OpRecord} {op : Byte} {sel id c a v : Bool} (hop : r.op.toNat = op.toNat)
    (h : r.unusedZero sel id c a v = true) : r = r.masked op sel id c a v := by
  have hid : (if id then r.id &&& 0xF0#8 == 0#8 else r.id == 0#8) = true ↔
      r.id = bif id then devIdAsByte (devIdOf r.id) else 0#8 := by
    cases id
    · exact beq_iff_eq
    · exact beq_iff_eq.trans ((devIdAsByte_devIdOf_iff r.id).symm.trans eq_comm)
  simp only [OpRecord.unusedZero, Bool.and_eq_true, and_assoc, or_eq_zero_iff, hid] at h
  obtain ⟨hsel, hid, hc, ha, hv⟩ := h
  obtain rfl : r.op = op := BitVec.eq_of_toNat_eq hop
  exact OpRecord.mk.injEq .. ▸ ⟨hsel, rfl, hid, hc, ha, hv⟩

/-! ## Decoding and encoding -/

/-- A checked operation is decoded where its checks hold. -/
theorem OpRecord.checked_iff (r : OpRecord) (ok : Bool) (i j : Instr) :
    r.checked ok i = .ok j ↔ ok = true ∧ i = j := by
  cases ok <;> simp [OpRecord.checked]

/-- The record of an AXR read row decodes to the operation of the row (R90). -/
theorem decodeRecord_axrRead {n : Byte} {id : DevId} {i : Instr}
    (h : (axrReadRow n).map (fun r => r.instr id n) = some i) : decodeRecord (axrRecord 0 n id 0#16) = .ok i := by
  obtain ⟨row, hrow, rfl⟩ := Option.map_eq_some_iff.1 h
  simp [decodeRecord, axrRecord, hrow, OpRecord.checked_iff, OpRecord.unusedZero]

theorem decodeRecord_axrWrite {n : Byte} {id : DevId} {v : Word} {i : Instr}
    (h : (axrWriteRow n).map (fun r => r.instr id n v) = some i) : decodeRecord (axrRecord 1 n id v) = .ok i := by
  obtain ⟨row, hrow, rfl⟩ := Option.map_eq_some_iff.1 h
  simp [decodeRecord, axrRecord, hrow, OpRecord.checked_iff, OpRecord.unusedZero]

/-- The record of a well-formed operation decodes to it (R82, R90). -/
theorem decodeRecord_record {i : Instr} (h : i.wf = true) : decodeRecord i.record = .ok i := by
  cases i with
  | axrrdDir | axrrdPocr | axrrdDmr | axrrdDvr | axrrdDsr | axrrdReserved05 | axrrdReserved06 | axrrdReserved07
  | axrrdEhcr | axrrdEhfr | axrrdEmvr | axrrdReserved0B | axrrdDecr | axrrdDear | axrrdDedr | axrrdDefr =>
    exact decodeRecord_axrRead rfl
  | axrrdDevspec10 id n => exact decodeRecord_axrRead (axrReadRow_instr (j := 16) rfl h id)
  | axrrdDevspec20 id n => exact decodeRecord_axrRead (axrReadRow_instr (j := 17) rfl h id)
  | axrrdDevspec40 id n => exact decodeRecord_axrRead (axrReadRow_instr (j := 18) rfl h id)
  | axrrdDevspec80 id n => exact decodeRecord_axrRead (axrReadRow_instr (j := 19) rfl h id)
  | axrwrDir | axrwrPocr | axrwrDmr | axrwrDvr | axrwrDsr | axrwrReserved05 | axrwrReserved06 | axrwrReserved07
  | axrwrEhcr | axrwrEhfr | axrwrEmvr | axrwrReserved0B | axrwrDecr | axrwrDear | axrwrDedr | axrwrDefr =>
    exact decodeRecord_axrWrite rfl
  | axrwrDevspec10 id n v => exact decodeRecord_axrWrite (axrWriteRow_instr (j := 16) rfl h id v)
  | axrwrDevspec20 id n v => exact decodeRecord_axrWrite (axrWriteRow_instr (j := 17) rfl h id v)
  | axrwrDevspec40 id n v => exact decodeRecord_axrWrite (axrWriteRow_instr (j := 18) rfl h id v)
  | axrwrDevspec80 id n v => exact decodeRecord_axrWrite (axrWriteRow_instr (j := 19) rfl h id v)
  | axrrd | axrwr | event | portrd | portwr =>
    simp [Instr.record, axrRecord, decodeRecord, OpRecord.checked_iff, OpRecord.unusedZero]
  | poweron cfg =>
    have hcfg : (cfg.setWidth 16).extractLsb' 0 12 = cfg := by
      ext n hn; simp [hn]; omega
    have hhigh := (setWidth_config_iff (cfg.setWidth 16)).1 (by rw [hcfg])
    have hok : powerOnConfigOk cfg = true := h
    simp [Instr.record, decodeRecord, OpRecord.checked_iff, OpRecord.unusedZero, hcfg, hhigh, hok]
  | memrd | memwr | sysmsgClearsilentflags | procstep | resume | ldHlNn | andAB => rfl

/-- A record that decodes is that of a well-formed operation (R82, R90). -/
theorem record_of_decodeRecord {r : OpRecord} {i : Instr} (h : decodeRecord r = .ok i) : i.wf = true ∧ r = i.record := by
  unfold decodeRecord at h
  split at h
  case h_1 hop => -- an AXR read row
    split at h
    · next row hrow =>
      obtain ⟨hz, rfl⟩ := (OpRecord.checked_iff ..).1 h
      obtain ⟨hwf, hrec⟩ := axrReadRow_record hrow (devIdOf r.id)
      exact ⟨hwf, hrec ▸ OpRecord.eq_masked hop hz⟩
    · cases h
  case h_2 hop => -- an AXR write row
    split at h
    · next row hrow =>
      obtain ⟨hz, rfl⟩ := (OpRecord.checked_iff ..).1 h
      obtain ⟨hwf, hrec⟩ := axrWriteRow_record hrow (devIdOf r.id) r.v
      exact ⟨hwf, hrec ▸ OpRecord.eq_masked hop hz⟩
    · cases h
  case h_7 hop | h_8 hop => -- PORTRD, PORTWR
    obtain ⟨hz, rfl⟩ := (OpRecord.checked_iff ..).1 h
    obtain ⟨hz, ha⟩ := Bool.and_eq_true_iff.1 hz
    rw [Instr.record, byteAsWord_lowByte (eq_of_beq ha)]
    exact ⟨rfl, OpRecord.eq_masked hop hz⟩
  case h_12 hop => -- POWERON
    obtain ⟨hz, rfl⟩ := (OpRecord.checked_iff ..).1 h
    simp only [Bool.and_eq_true, beq_iff_eq] at hz
    obtain ⟨⟨hz, hv⟩, hcfg⟩ := hz
    rw [Instr.record, (setWidth_config_iff r.v).2 hv]
    exact ⟨hcfg, OpRecord.eq_masked hop hz⟩
  case h_16 => cases h -- no operation
  all_goals
    next hop =>
    obtain ⟨hz, rfl⟩ := (OpRecord.checked_iff ..).1 h
    exact ⟨rfl, OpRecord.eq_masked hop hz⟩

/-- The bytes of a record, and what follows them, are a record and what follows it. -/
theorem takeRecord_eq_some_iff (bs : List Byte) (r : OpRecord) (rest : List Byte) :
    takeRecord bs = some (r, rest) ↔ bs = r.bytes ++ rest := by
  constructor
  · intro h
    unfold takeRecord at h
    split at h
    · cases h
      simp [OpRecord.bytes]
    · cases h
  · rintro rfl
    simp [takeRecord, OpRecord.bytes]

/-- What decodes is the record of an operation, followed by the other bytes. -/
theorem decode_eq_ok_iff (bs : List Byte) (i : Instr) (rest : List Byte) :
    decode bs = .ok (i, rest) ↔ i.wf = true ∧ bs = encode i ++ rest := by
  constructor
  · intro h
    unfold decode at h
    split at h
    · cases h
    · next r rest' hr =>
      split at h
      · next j hj =>
        cases h
        obtain ⟨hwf, rfl⟩ := record_of_decodeRecord hj
        exact ⟨hwf, (takeRecord_eq_some_iff ..).1 hr⟩
      · cases h
  · rintro ⟨hwf, rfl⟩
    simp only [decode, encode, (takeRecord_eq_some_iff _ i.record rest).2 rfl, decodeRecord_record hwf]

/-- Settles O1. -/
theorem decodeEncodeRoundTrip : Obligations.DecodeEncodeRoundTrip := fun i rest h =>
  (decode_eq_ok_iff _ i rest).2 ⟨h, rfl⟩

/-- Settles O2. -/
theorem decodeAcceptsOnlyEncodings : Obligations.DecodeAcceptsOnlyEncodings := fun bs i rest =>
  (decode_eq_ok_iff bs i rest).1

/-- Settles O4: each is the record of a well-formed operation. -/
theorem sampleRecordsDecode : Obligations.SampleRecordsDecode :=
  ⟨decodeEncodeRoundTrip (.axrwrEhfr 3 0x0134) [] rfl, decodeEncodeRoundTrip (.axrrdDevspec20 15 0x2A) [] rfl,
    decodeEncodeRoundTrip (.memwr 0xC123 0x5A) [] rfl, decodeEncodeRoundTrip (.poweron 0x342) [] rfl,
    decodeEncodeRoundTrip (.ldHlNn 0xC0FF) [] rfl⟩

end Sys2Proof
end

section
/-! SUPPORT. Undefined event codes, compulsory events, and the unknown opcode that raises one (30_encoding.md R87, R88;
40_proc_instructions.md R92, R95; 60_exceptions.md R137, R142 to R149, R157, R160). -/

namespace Sys2Proof.Machine

/-- Settles O48. -/
theorem undefinedEventNeverOccurs : Obligations.UndefinedEventNeverOccurs := by
  intro s id d c a x hd hk
  simp only [exec, execEvent, hd, hk]

/-! ## Handling an event that triggers -/

theorem hasMechanism_iff (f : Word) : hasMechanism f = true ↔ f &&& 0x0700#16 ≠ 0x0000#16 := bne_iff_ne

theorem hasMechanism_of_monitor {f : Word} (h : f.getLsbD 9 = true) : hasMechanism f = true := by
  rw [hasMechanism_iff]
  intro hz
  have hb : (f &&& 0x0700#16).getLsbD 9 = true := by rw [BitVec.getLsbD_and, h]; rfl
  rw [hz] at hb
  cases hb

/-- Monitor Mode asked for where it is absent (60_exceptions.md R160). -/
theorem State.handle_absent {s : State} (d : Device) {f : Word} (h9 : f.getLsbD 9 = true)
    (hp : s.hw.monitorPresent = false) : s.handle d f = .error .monitorModeAbsent := by
  simp [State.handle, h9, hp]

/-- Monitor Mode asked for in Monitor Mode (60_exceptions.md R157). -/
theorem State.handle_reentry {s : State} {d : Device} {f : Word} (h9 : f.getLsbD 9 = true)
    (hp : s.hw.monitorPresent = true) (hm : d.mode = .monitor) : s.handle d f = .error .monitorModeReentry := by
  simp [State.handle, h9, hp, hm]

/-- A device after the handling of an event with flags `f` (60_exceptions.md R145 to R148). -/
def Device.handled (e : Device) (f : Word) : Device :=
  { e with
    mode := if f.getLsbD 9 then .monitor else e.mode
    susp := e.susp || f.getLsbD 8
    shut := e.shut || (f.getLsbD 10 && !f.getLsbD 9 && !f.getLsbD 8) }

@[simp] theorem Device.handled_flags (e : Device) (f : Word) (c : Byte) : (e.handled f).flags c = e.flags c := rfl
@[simp] theorem Device.handled_defr (e : Device) (f : Word) : (e.handled f).defr = e.defr := rfl

/-- Any other handling goes through, and changes every device alike (R145 to R148). -/
theorem State.handle_ok {s : State} {d : Device} {f : Word}
    (h : f.getLsbD 9 = true → s.hw.monitorPresent = true ∧ d.mode = .compatible) :
    ∃ t, s.handle d f = .ok t ∧ ∀ id, t.dev? id = (s.dev? id).map (Device.handled · f) := by
  unfold State.handle Device.handled
  cases h9 : f.getLsbD 9 with
  | true =>
    obtain ⟨hp, hm⟩ := h h9
    refine ⟨if f.getLsbD 8 then (s.enterMonitor d.emvr).suspendAll else s.enterMonitor d.emvr,
      by simp only [hp, hm, if_true], fun id => ?_⟩
    cases f.getLsbD 8 <;> simp [State.enterMonitor, State.suspendAll, Function.comp_def]
  | false =>
    cases h8 : f.getLsbD 8 with
    | true => exact ⟨_, rfl, fun id => by simp [State.suspendAll]⟩
    | false =>
      cases h10 : f.getLsbD 10 with
      | true => exact ⟨_, rfl, fun id => by simp [State.shutdownAll]⟩
      | false => exact ⟨_, rfl, fun id => by simp⟩

/-- A compulsory event cannot be silenced: its entry decides (60_exceptions.md R137, R142, R149). -/
theorem State.occur_compulsory (s : State) (id : DevId) (d : Device) (c : Byte) (a x : Word) :
    s.occur .compulsory id d c a x =
      if hasMechanism (d.flags c) then
        ((s.setDev id (d.recordTrigger s.hw .compulsory c a x)).handle d (d.flags c)).map (Prod.mk .stopped)
      else .error .compulsoryEventUnhandled := by
  rw [State.occur, if_neg (by simp [silenced])]
  split
  · cases (s.setDev id (d.recordTrigger s.hw .compulsory c a x)).handle d (d.flags c) <;> rfl
  · rfl

/-- A compulsory event changes no entry of the table (R150). -/
theorem Device.flags_recordTrigger_compulsory (hw : Hardware) (d : Device) (c : Byte) (a x : Word) (c' : Byte) :
    (d.recordTrigger hw .compulsory c a x).flags c' = d.flags c' := by
  show (d.setFlags c (d.flags c)).flags c' = d.flags c'
  rw [Device.flags_setFlags]
  split
  · next h => rw [h]
  · rfl

theorem Device.defr_recordTrigger_compulsory (hw : Hardware) (d : Device) (c : Byte) (a x : Word) :
    (d.recordTrigger hw .compulsory c a x).defr = d.flags c := by
  unfold Device.recordTrigger
  cases hw.defrCopy <;> rfl

/-- A compulsory event is refused as its handling is. -/
theorem State.occur_compulsory_error {s : State} {id : DevId} {d : Device} {c : Byte} {r : Refusal}
    (hm : hasMechanism (d.flags c) = true) (hh : ∀ e, (s.setDev id e).handle d (d.flags c) = .error r) (a x : Word) :
    s.occur .compulsory id d c a x = .error r := by
  rw [State.occur_compulsory, if_pos hm, hh]
  rfl

/-- A compulsory event that names a mechanism, Monitor Mode where that can be entered, triggers: it is recorded at its device,
changes no entry, and is handled at all devices (R137, R142, R144 to R148). -/
theorem State.occur_compulsory_stopped {s : State} {id : DevId} {d : Device} {c : Byte} (hd : s.dev? id = some d)
    (hm : hasMechanism (d.flags c) = true)
    (h9 : (d.flags c).getLsbD 9 = true → s.hw.monitorPresent = true ∧ d.mode = .compatible) (a x : Word) :
    ∃ t, s.occur .compulsory id d c a x = .ok (.stopped, t) ∧
      t.dev? id = some ((d.recordTrigger s.hw .compulsory c a x).handled (d.flags c)) ∧
      ∀ id', id' ≠ id → t.dev? id' = (s.dev? id').map (Device.handled · (d.flags c)) := by
  obtain ⟨t, ht, hdev⟩ := State.handle_ok (s := s.setDev id (d.recordTrigger s.hw .compulsory c a x)) (d := d) h9
  refine ⟨t, by rw [State.occur_compulsory, if_pos hm, ht]; rfl, ?_, fun id' hid => ?_⟩
  · rw [hdev, State.dev?_setDev_same hd]; rfl
  · rw [hdev, State.dev?_setDev_other s _ hid]

/-! ## INVALID_INSTR -/

section
variable {u : State} {d : Device} (hd : u.dev? u.hw.procId = some d)
include hd

/-- INVALID_INSTR that is refused; the refusal for want of a mechanism has a name of its own (R95). -/
theorem State.invalidInstr_refused {r : Refusal}
    (h : ∀ a x, u.occur .compulsory u.hw.procId d u.hw.invalidCode a x = .error r) :
    u.invalidInstr = .refused (if r = .compulsoryEventUnhandled then .invalidOpcodeUnhandled else r) := by
  simp only [State.invalidInstr, hd, h]
  cases r <;> rfl

/-- INVALID_INSTR that triggers stops the instruction (R92, R95). -/
theorem State.invalidInstr_stopped {w : State}
    (h : u.occur .compulsory u.hw.procId d u.hw.invalidCode (Config.freeBits 16 u.draws)
      (Config.freeBits 16 (u.draws + 1)) = .ok (.stopped, w)) :
    u.invalidInstr = .next ((w.drawn 2).withAnswer .stopped) := by
  simp only [State.invalidInstr, hd, h]

end

/-- An instruction that has come to an unknown opcode raises INVALID_INSTR (R95). -/
theorem Executes.exec_unknownOpcode {s u : State} {i : Instr} {p : CoreProg} (h : Executes s i p)
    (hu : Underway s p .unknownOpcode u) : exec i s = u.invalidInstr := by
  rw [h.exec_eq, State.instruction_congr hu.runProg_eq]
  rfl

/-! ## The fetch of an unknown opcode -/

theorem length_le_fetchLimit {rows : List OpcodeRow} {r : OpcodeRow} (h : r ∈ rows) :
    r.bytes.length ≤ fetchLimit rows := by
  obtain ⟨l₁, l₂, rfl⟩ := List.append_of_mem h
  rw [fetchLimit, List.foldl_append, List.foldl_cons]
  exact List.foldlRecOn (motive := fun n => r.bytes.length ≤ n) l₂ _ (le_max_right _ _) fun _ hn _ _ => le_max_of_le_left hn

/-- An unknown opcode is no longer than the fetch goes: all of its bytes but the last begin a longer row. -/
theorem UnknownOpcode.length_le {rows : List OpcodeRow} {m : Mode} {c : Core} {bs : List Byte}
    (h : UnknownOpcode rows m c bs) : bs.length ≤ fetchLimit rows := by
  obtain ⟨hne, hpre, -⟩ := h
  have hlen : bs.dropLast.length + 1 = bs.length := by
    rw [List.length_dropLast, Nat.sub_add_cancel (List.length_pos_iff.2 hne)]
  rcases eq_or_ne bs.dropLast [] with hnil | hnil
  · rw [← hlen, hnil]; exact fetchLimit_pos rows
  · obtain ⟨hfind, hany⟩ := hpre _ hnil (List.dropLast_prefix bs) fun h => by rw [h] at hlen; omega
    obtain ⟨r, hr, hp⟩ := List.any_eq_true.1 hany
    have hp : bs.dropLast <+: r.bytes := List.isPrefixOf_iff_prefix.1 hp
    have hn : bs.dropLast ≠ r.bytes := fun he => List.find?_eq_none.1 hfind r hr (beq_iff_eq.2 he.symm)
    have hlt : bs.dropLast.length < r.bytes.length := lt_of_le_of_ne hp.length_le fun hl => hn (hp.eq_of_length hl)
    have := length_le_fetchLimit hr
    omega

/-- The fetch of the bytes of an unknown opcode that are left, where those before are fetched: it comes to the unknown opcode
and drives the bus only (R92, R95). -/
theorem runProg_fetchProg_unknown {s : State} {bs : List Byte} {m : Mode} (hs : s.storesAtPc bs)
    (hu : UnknownOpcode s.hw.opcodes m s.core bs) (rest : List Byte) :
    ∀ (b : Byte) (got : List Byte) (y : Byte) (fuel : Nat), bs = got ++ y :: rest → rest.length < fuel →
      ∃ b', runProg (fetchProg s.hw.opcodes m s.core fuel got) (s.withBus b) = .done .invalidOpcode (s.withBus b') := by
  obtain ⟨-, hpre, hend⟩ := hu
  induction rest with
  | nil =>
    rintro b got y (_ | fuel) hbs hf
    · cases hf
    have hy : (s.withBus b).storedByte (s.core.pc + BitVec.ofNat 16 got.length) = some y :=
      hs got.length y (by simp [hbs])
    rw [fetchProg, runProg, State.memRead_stored hy]
    refine ⟨y, ?_⟩
    simp only [TxOut.andThen, ← hbs]
    cases hfind : s.hw.opcodes.find? fun r => r.bytes == bs with
    | some r =>
      have hop : r.op = .unknown := by simpa only [hfind] using hend
      simp only [hop, opProg]; rfl
    | none =>
      obtain ⟨hany, hcore⟩ : (s.hw.opcodes.any fun r => bs.isPrefixOf r.bytes) = false ∧
          Config.procCore m s.core bs = .unknownOpcode := by simpa only [hfind] using hend
      simp only [hany, hcore]; rfl
  | cons z rest ih =>
    rintro b got y (_ | fuel) hbs hf
    · cases hf
    have hy : (s.withBus b).storedByte (s.core.pc + BitVec.ofNat 16 got.length) = some y :=
      hs got.length y (by simp [hbs])
    obtain ⟨hfind, hany⟩ := hpre (got ++ [y]) (by simp) ⟨z :: rest, by simp [hbs]⟩ (by simp [hbs])
    obtain ⟨b', hb'⟩ := ih y (got ++ [y]) z fuel (by simp [hbs]) (Nat.lt_of_succ_lt_succ hf)
    rw [fetchProg, runProg, State.memRead_stored hy]
    refine ⟨b', ?_⟩
    simp only [TxOut.andThen, hfind, hany, if_true]
    exact hb'

/-- A step of the PROC comes to the unknown opcode stored at its pc, and drives the bus only (R92, R95). -/
theorem State.comesTo_unknownOpcode {s : State} {d : Device} {bs : List Byte} (hr : s.runningProc = some d)
    (hs : s.storesAtPc bs) (hu : UnknownOpcode s.hw.opcodes d.mode s.core bs) :
    ∃ p b, Executes s .procstep p ∧ Underway s p .unknownOpcode (s.withBus b) := by
  obtain ⟨y, rest, rfl⟩ := List.exists_cons_of_ne_nil hu.1
  obtain ⟨b, hb⟩ := runProg_fetchProg_unknown hs hu rest s.busLast [] y _ rfl hu.length_le
  exact ⟨_, b, .procstep hr, Underway.of_runProg _ .start hb⟩

/-- Settles O58: the fetch comes to the opcode, and INVALID_INSTR is then handled as its entry says. -/
theorem invalidOpcodeShutsDown : Obligations.InvalidOpcodeShutsDown := by
  refine fun s => ⟨fun d bs hr hs hu => ?_, fun p u d f hp hu hd hf => ?_⟩
  · obtain ⟨p, b, hp, hu⟩ := State.comesTo_unknownOpcode hr hs hu
    exact ⟨p, _, hp, hu, rfl, rfl⟩
  obtain ⟨hhw, hcore, -⟩ := hu.keeps
  rw [← hhw] at hd hf ⊢
  subst hf
  rw [hp.exec_unknownOpcode hu]
  refine ⟨fun h0 => ?_, fun h9 hm => ?_, fun h9 hm hmode => ?_, fun h0 h9 => ?_⟩
  · have hn : ¬hasMechanism (d.flags u.hw.invalidCode) = true := fun h => (hasMechanism_iff _).1 h h0
    exact State.invalidInstr_refused hd fun a x => by rw [State.occur_compulsory, if_neg hn]
  · exact State.invalidInstr_refused hd
      (State.occur_compulsory_error (hasMechanism_of_monitor h9) fun _ => State.handle_absent d h9 hm)
  · exact State.invalidInstr_refused hd
      (State.occur_compulsory_error (hasMechanism_of_monitor h9) fun _ => State.handle_reentry h9 hm hmode)
  · obtain ⟨w, hw, hat, hother⟩ := State.occur_compulsory_stopped hd ((hasMechanism_iff _).2 h0) h9 _ _
    obtain ⟨-, -, -, -, hmem, -, -, -, hcore'⟩ := State.occur_stopped_frame hw
    refine ⟨_, State.invalidInstr_stopped hd hw, rfl, hmem, hcore ▸ hcore', fun id e he => ?_, _, hat, rfl, by
      rw [Device.handled_defr, Device.defr_recordTrigger_compulsory]⟩
    by_cases hid : id = u.hw.procId
    · subst hid
      cases hd.symm.trans he
      exact ⟨_, hat, rfl, rfl, rfl, fun c => by rw [Device.handled_flags, Device.flags_recordTrigger_compulsory]⟩
    · exact ⟨_, (hother id hid).trans (congrArg _ he), rfl, rfl, rfl, fun _ => rfl⟩

end Sys2Proof.Machine
end

section
/-! SUPPORT. What an instruction of the PROC comes to: not executed, completed, stopped, or an unknown opcode; and what it
leaves where it completes (40_proc_instructions.md R92 to R96, R99; 42_system_messages.md R126, R127). -/

namespace Sys2Proof.Machine

/-! ## Executing an instruction -/

/-- Without a running PROC its instructions are not enabled (R96; log entry 6). -/
theorem exec_of_not_running {s : State} (h : s.runningProc = none) {i : Instr} {nn : Word}
    (hi : i ∈ [Instr.procstep, .ldHlNn nn, .andAB]) : exec i s = .next (s.withAnswer .notEnabled) := by
  simp only [List.mem_cons, List.not_mem_nil, or_false] at hi
  rcases hi with rfl | rfl | rfl
  · rw [exec, execProcstep, h]
  · rw [exec, execLdHlNn, h]
  · rw [exec, execAndAB, h]

/-- A running PROC executes a program for each of its instructions (R92). -/
theorem Executes.of_running {s : State} {d : Device} (h : s.runningProc = some d) {i : Instr} {nn : Word}
    (hi : i ∈ [Instr.procstep, .ldHlNn nn, .andAB]) : ∃ p, Executes s i p := by
  simp only [List.mem_cons, List.not_mem_nil, or_false] at hi
  rcases hi with rfl | rfl | rfl
  · exact ⟨_, .procstep h⟩
  · exact ⟨_, .ldHlNn h nn⟩
  · exact ⟨_, .andAB h⟩

/-- An instruction that goes on, unless it was not enabled, is that of a running PROC (R92, R96). -/
theorem Executes.of_next {s t : State} {i : Instr} {nn : Word} (hi : i ∈ [Instr.procstep, .ldHlNn nn, .andAB])
    (hx : exec i s = .next t) (ha : t.answer ≠ .notEnabled) : ∃ p, Executes s i p := by
  rcases hr : s.runningProc with _ | d
  · cases hx.symm.trans (exec_of_not_running hr hi)
    exact absurd rfl ha
  · exact Executes.of_running hr hi

/-- How an instruction that goes on ends (R92). -/
theorem State.instruction_next {s t : State} {p : CoreProg} (h : s.instruction p = .next t) :
    (∃ c u, runProg p s = .done (.valid c) u ∧ t = (u.complete c).withAnswer .completed) ∨
    (∃ u, runProg p s = .stopped u ∧ t = u.withAnswer .stopped) ∨
    ∃ u, runProg p s = .done .invalidOpcode u ∧ u.invalidInstr = .next t := by
  unfold State.instruction at h
  split at h
  · cases h
  · next u hr => cases h; exact .inr (.inl ⟨u, hr, rfl⟩)
  · next u hr => exact .inr (.inr ⟨u, hr, h⟩)
  · next c u hr => cases h; exact .inl ⟨c, u, hr, rfl⟩

/-- How INVALID_INSTR that is not refused ends: at a PROC that is there it triggers, being compulsory (R95, R137). -/
theorem State.invalidInstr_next {u t : State} (h : u.invalidInstr = .next t) :
    t.answer = .notEnabled ∨
    ∃ d a x w, u.dev? u.hw.procId = some d ∧ u.occur .compulsory u.hw.procId d u.hw.invalidCode a x = .ok (.stopped, w) ∧
      t = (w.drawn 2).withAnswer .stopped := by
  unfold State.invalidInstr at h
  split at h
  · cases h; exact .inl rfl
  · next d hd =>
    split at h
    · next r w ho =>
      cases h
      rcases State.occur_cases ho with ⟨-, -, hs⟩ | ⟨-, -, -, -, hk⟩ | ⟨rfl, -⟩
      · cases hs
      · exact absurd rfl hk
      · exact .inr ⟨d, _, _, w, hd, ho, rfl⟩
    · cases h
    · cases h

/-- Settles O54. -/
theorem stoppedProcExecutesNothing : Obligations.StoppedProcExecutesNothing := by
  intro s d nn i hd hstop hi
  refine exec_of_not_running ?_ hi
  rcases hr : s.runningProc with _ | e
  · rfl
  · obtain ⟨he, hsusp, hshut⟩ := State.runningProc_dev hr
    cases hd.symm.trans he
    simp [hsusp, hshut] at hstop

/-! ## Instructions whose fetches are performed -/

/-- An instruction goes on after a fetch that is performed, which drives the bus and draws free values at most. -/
theorem State.instruction_memRd_through {s : State} {a : Word} (h : s.readsThrough a = true) (k : Byte → CoreProg) :
    ∃ v b n, s.instruction (.memRd a k) = ((s.withBus b).drawn n).instruction (k v) := by
  obtain ⟨v, b, n, hx⟩ := State.memRead_through h
  exact ⟨v, b, n, State.instruction_congr (by rw [runProg, hx]; rfl)⟩

/-- Settles O55: three fetches go through, then the program is at its end. -/
theorem ldHlLoadsImmediate : Obligations.LdHlLoadsImmediate := by
  intro s d nn hr h0 h1 h2
  obtain ⟨_, b0, n0, e0⟩ := State.instruction_memRd_through h0 fun _ =>
    .memRd (s.core.pc + 1) fun _ => .memRd (s.core.pc + 2) fun _ => .complete (Core.loadHl s.core nn 3)
  obtain ⟨_, b1, n1, e1⟩ := State.instruction_memRd_through (s := (s.withBus b0).drawn n0) h1 fun _ =>
    .memRd (s.core.pc + 2) fun _ => .complete (Core.loadHl s.core nn 3)
  obtain ⟨_, b2, n2, e2⟩ := State.instruction_memRd_through
    (s := (((s.withBus b0).drawn n0).withBus b1).drawn n1) h2 fun _ => .complete (Core.loadHl s.core nn 3)
  refine ⟨_, ((Executes.ldHlNn hr nn).exec_eq.trans (e0.trans (e1.trans e2))).trans (State.instruction_complete _ _), rfl,
    rfl, rfl, rfl, rfl, rfl, rfl, rfl⟩

/-- The summary bit P/V: the number of set bits is even (R94). -/
theorem parityEven_iff (r : Byte) : parityEven r = true ↔ ((List.range 8).countP fun n => r.getLsbD n) % 2 = 0 := by
  simp only [parityEven, List.range, List.range.loop, List.countP_cons, List.countP_nil]
  generalize r.getLsbD 0 = b0, r.getLsbD 1 = b1, r.getLsbD 2 = b2, r.getLsbD 3 = b3, r.getLsbD 4 = b4,
    r.getLsbD 5 = b5, r.getLsbD 6 = b6, r.getLsbD 7 = b7
  revert b0 b1 b2 b3 b4 b5 b6 b7
  decide

/-- One summand of F: a mask where its condition holds. -/
theorem getLsbD_ite_zero {w : Nat} (b : Bool) (m : BitVec w) (n : Nat) :
    (if b then m else 0#w).getLsbD n = (b && m.getLsbD n) := by
  cases b <;> simp

/-- The bits of F after `AND A, B` (R94). -/
theorem andFlags_bits (r u : Byte) :
    (andFlags r u).getLsbD 7 = r.getLsbD 7 ∧ (andFlags r u).getLsbD 6 = (r == 0#8) ∧ (andFlags r u).getLsbD 4 = true ∧
      (andFlags r u).getLsbD 2 = parityEven r ∧ (andFlags r u).getLsbD 1 = false ∧ (andFlags r u).getLsbD 0 = false := by
  simp only [andFlags, BitVec.getLsbD_or, BitVec.getLsbD_and, getLsbD_ite_zero]
  simp

/-- Settles O56: the fetch goes through, a free value stands for the open flags, then the program is at its end. -/
theorem andAccumulatesAndSetsFlags : Obligations.AndAccumulatesAndSetsFlags := by
  intro s d hr h0
  obtain ⟨_, b, n, e⟩ := State.instruction_memRd_through h0 fun _ => .undetermined fun u => .complete (Core.andB s.core u 1)
  have hx := ((Executes.andAB hr).exec_eq.trans e).trans (State.instruction_complete _ (Core.andB s.core _ 1))
  obtain ⟨hS, hZ, hH, hPV, hN, hC⟩ := andFlags_bits (s.core.a &&& s.core.b) (Config.freeBits 8 ((s.withBus b).drawn n).draws)
  exact ⟨_, hx, rfl, rfl, hS, (iff_of_eq (congrArg (· = true) hZ)).trans beq_iff_eq, hH,
    (iff_of_eq (congrArg (· = true) hPV)).trans (parityEven_iff _), hN, hC, rfl, rfl, rfl, rfl, rfl, rfl⟩

/-! ## Instructions that complete -/

/-- Bits 15 and 14 of DSR are the silent flags of the device (10_state.md R30; 42_system_messages.md R127). -/
theorem Device.anySilent_iff_dsr (d : Device) (b : BitVec 10) :
    d.anySilent = true ↔ (d.dsr b).getLsbD 15 = true ∨ (d.dsr b).getLsbD 14 = true := by
  obtain ⟨h15, h14, -⟩ :=
    dsrImage_bits (d.eht.anyBit 15) (d.eht.anyBit 14) b d.enab d.shut (d.mode == .monitor) d.susp
  rw [Device.dsr, h15, h14, Device.anySilent, Bool.or_eq_true]

/-- A bit that no entry has set is set in no entry read. -/
theorem Sparse.getLsbD_get {w : Nat} {m : Sparse w} {n : Nat} (h : ∀ p ∈ m, p.2.getLsbD n = false) (k : Nat) :
    (Sparse.get m k).getLsbD n = false := by
  by_cases hz : Sparse.get m k = 0#w
  · rw [hz, BitVec.getLsbD_zero]
  · exact h _ (Sparse.mem_of_get hz)

/-- Masking clears in every entry what the mask does not keep, of a table in any form. -/
theorem Sparse.getLsbD_andAll {w : Nat} (m : Sparse w) {mask : BitVec w} {n : Nat} (h : mask.getLsbD n = false) (k : Nat) :
    (Sparse.get (Sparse.andAll m mask) k).getLsbD n = false :=
  Sparse.getLsbD_get (fun p hp => by
    obtain ⟨q, -, rfl, -⟩ := Sparse.mem_andAll hp
    rw [BitVec.getLsbD_and, h, Bool.and_false]) k

theorem Device.flags_of_anyBit {d : Device} {n : Nat} (h : d.eht.anyBit n = false) (c : Byte) :
    (d.flags c).getLsbD n = false :=
  Sparse.getLsbD_get (fun p hp => by simpa using List.any_eq_false.1 h p hp) _

/-- No silent flag is set that CLEARSILENTFLAGS clears in the device's mode (42_system_messages.md R126). -/
def Device.SilentCleared (e : Device) : Prop :=
  (e.mode = .compatible → ∀ c, (e.flags c).getLsbD 15 = false ∧ (e.flags c).getLsbD 14 = false) ∧
  (e.mode = .monitor → ∀ c, (e.flags c).getLsbD 14 = false)

theorem Device.silentCleared_clearSilent (d : Device) : d.clearSilent.SilentCleared := by
  have hbit : ∀ n, (clearKeeps d.mode).getLsbD n = false → ∀ c, (d.clearSilent.flags c).getLsbD n = false :=
    fun n h c => Sparse.getLsbD_andAll d.eht h c.toNat
  refine ⟨fun hm => ?_, fun hm => ?_⟩ <;> rw [Device.clearSilent_mode] at hm <;> rw [hm] at hbit
  · exact fun c => ⟨hbit 15 rfl c, hbit 14 rfl c⟩
  · exact hbit 14 rfl

theorem Device.silentCleared_of_not_anySilent {d : Device} (h : d.anySilent = false) : d.SilentCleared := by
  rw [Device.anySilent, Bool.or_eq_false_iff] at h
  exact ⟨fun _ c => ⟨Device.flags_of_anyBit h.1 c, Device.flags_of_anyBit h.2 c⟩, fun _ => Device.flags_of_anyBit h.2⟩

/-- After an instruction that completes no such flag is set at any device (R127). -/
theorem State.complete_silentCleared {s : State} {c : Core} {id : DevId} {e : Device}
    (h : (s.complete c).dev? id = some e) : e.SilentCleared := by
  unfold State.complete at h
  dsimp only at h
  split at h
  · obtain ⟨d, -, rfl⟩ := Option.map_eq_some_iff.1 ((State.dev?_allDevs _ _ id).symm.trans h)
    exact d.silentCleared_clearSilent
  · next hn =>
    refine Device.silentCleared_of_not_anySilent (Bool.eq_false_iff.2 fun hs => hn ?_)
    exact (State.someDev_iff _ _).2 ⟨e, State.mem_of_dev? h, hs⟩

/-- An instruction whose program has come to its end (R92 step 4). -/
theorem Executes.exec_complete {s u : State} {i : Instr} {p : CoreProg} {c : Core} (h : Executes s i p)
    (hu : Underway s p (.complete c) u) :
    exec i s = .next { u with core := c, devs := u.devsCompleted, answer := .completed } := by
  rw [h.exec_eq, State.instruction_congr hu.runProg_eq, State.instruction_complete]

/-- An instruction that completes has come to its program's end. -/
theorem Executes.of_completed {s t : State} {i : Instr} {p : CoreProg} (h : Executes s i p) (hx : exec i s = .next t)
    (ha : t.answer = .completed) :
    ∃ c u, Underway s p (.complete c) u ∧ t = (u.complete c).withAnswer .completed := by
  rw [h.exec_eq] at hx
  rcases State.instruction_next hx with ⟨c, u, hr, ht⟩ | ⟨u, -, rfl⟩ | ⟨u, -, hi⟩
  · exact ⟨c, u, Underway.of_runProg p .start hr, ht⟩
  · cases ha
  · rcases State.invalidInstr_next hi with hn | ⟨d, a, x, w, -, -, rfl⟩
    · cases ha.symm.trans hn
    · cases ha

/-- Settles O59. -/
theorem completedInstructionClearsSilentFlags : Obligations.CompletedInstructionClearsSilentFlags := by
  refine fun s i => ⟨fun p c u hp hu => ⟨_, hp.exec_complete hu, rfl, ?_, fun hquiet => ?_⟩, fun t nn hi hx ha => ?_⟩
  · rintro ⟨d, b, hd, hb⟩
    exact ⟨_, rfl, if_pos ((State.someDev_iff _ _).2 ⟨d, hd, (d.anySilent_iff_dsr b).2 hb⟩)⟩
  · refine if_neg fun hs => ?_
    obtain ⟨d, hd, hsil⟩ := (State.someDev_iff _ _).1 hs
    obtain ⟨h15, h14⟩ := hquiet d 0 hd
    rcases (d.anySilent_iff_dsr 0).1 hsil with hs15 | hs14
    · cases h15.symm.trans hs15
    · cases h14.symm.trans hs14
  · obtain ⟨p, hp⟩ := Executes.of_next hi hx (by simp [ha])
    obtain ⟨c, u, hu, rfl⟩ := hp.of_completed hx ha
    exact ⟨⟨p, c, u, hp, hu⟩, fun _ _ => State.complete_silentCleared⟩

end Sys2Proof.Machine
end

section
/-! SUPPORT. An instruction that an event stops (40_proc_instructions.md R92, R95; 60_exceptions.md R144, R147, R154). -/

namespace Sys2Proof.Machine

/-! ## The next transaction of a program -/

/-- The program `q` issues the transaction `o` next, which as an operation is `j` and reports by `f`; `k` is what the program
goes on with (R92 step 1). -/
structure Transacts (u : State) (q : CoreProg) (j : Instr) {α : Type} (o : TxOut α) (f : α → Answer)
    (k : α → CoreProg) : Prop where
  next : nextTransaction q = some j
  exec_eq : exec j u = o.report f
  runProg_eq : runProg q u = o.andThen fun x v => runProg (k x) v
  keeps : o.Keeps u
  report_ne : ∀ x, f x ≠ .stopped
  underway : ∀ {s p x w}, Underway s p q u → exec j u = .next w → w.answer = f x →
    Underway s p (k x) (w.withAnswer u.answer)

theorem Transacts.memRd (u : State) (a : Word) (k : Byte → CoreProg) :
    Transacts u (.memRd a k) (.memrd a) (u.memRead a) .byte k :=
  ⟨rfl, rfl, rfl, u.memRead_keeps a, nofun, .memRd⟩

theorem Transacts.memWr (u : State) (a : Word) (b : Byte) (k : CoreProg) :
    Transacts u (.memWr a b k) (.memwr a b) (u.memWrite a b) (fun _ => .done) fun _ => k :=
  ⟨rfl, rfl, rfl, u.memWrite_keeps a b, nofun, .memWr⟩

theorem Transacts.portRd (u : State) (a : Byte) (k : Byte → CoreProg) :
    Transacts u (.portRd a k) (.portrd a) (u.portRead a) .byte k :=
  ⟨rfl, rfl, rfl, u.portRead_keeps a, nofun, .portRd⟩

theorem Transacts.portWr (u : State) (a b : Byte) (k : CoreProg) :
    Transacts u (.portWr a b k) (.portwr a b) (u.portWrite a b) (fun _ => .done) fun _ => k :=
  ⟨rfl, rfl, rfl, u.portWrite_keeps a b, nofun, .portWr⟩

theorem Transacts.axrRd (u : State) (id : DevId) (n : Byte) (k : Word → CoreProg) :
    Transacts u (.axrRd id n k) (.axrrd id n) (u.axrRead id (axrReg n).read) .word k :=
  ⟨rfl, rfl, rfl, u.axrRead_keeps id _, nofun, .axrRd⟩

theorem Transacts.axrWr (u : State) (id : DevId) (n : Byte) (v : Word) (k : Bool → CoreProg) :
    Transacts u (.axrWr id n v k) (.axrwr id n v) (u.axrWrite id n (axrReg n) v)
      (fun e => if e then .axrWriteError else .done) k :=
  ⟨rfl, rfl, rfl, u.axrWrite_keeps id n _ v, fun e => by cases e <;> nofun, .axrWr⟩

theorem Transacts.of_next {q : CoreProg} {j : Instr} (h : nextTransaction q = some j) (u : State) :
    ∃ (α : Type) (o : TxOut α) (f : α → Answer) (k : α → CoreProg), Transacts u q j o f k := by
  cases q with
  | memRd a k => cases h; exact ⟨_, _, _, _, .memRd u a k⟩
  | memWr a b k => cases h; exact ⟨_, _, _, _, .memWr u a b k⟩
  | portRd a k => cases h; exact ⟨_, _, _, _, .portRd u a k⟩
  | portWr a b k => cases h; exact ⟨_, _, _, _, .portWr u a b k⟩
  | axrRd id n k => cases h; exact ⟨_, _, _, _, .axrRd u id n k⟩
  | axrWr id n v k => cases h; exact ⟨_, _, _, _, .axrWr u id n v k⟩
  | complete | unknownOpcode | undetermined => cases h

/-! ## A program whose next transaction is stopped -/

/-- The program `p`, begun in `s`, has come to a transaction that is stopped and leaves `t`. -/
def StoppedAt (s : State) (p : CoreProg) (t : State) : Prop :=
  ∃ q u j, Underway s p q u ∧ nextTransaction q = some j ∧ exec j u = .next (t.withAnswer .stopped)

section
variable {u : State} {q : CoreProg} {j : Instr} {α : Type} {o : TxOut α} {f : α → Answer} {k : α → CoreProg}
  (h : Transacts u q j o f k)
include h

/-- A program that is stopped is so at its next transaction, or goes on after it and is stopped there. -/
theorem Transacts.stoppedAt {s t : State} {p : CoreProg} (hu : Underway s p q u) (hr : runProg q u = .stopped t)
    (ih : ∀ x {v}, Underway s p (k x) v → runProg (k x) v = .stopped t → StoppedAt s p t) : StoppedAt s p t := by
  have hrun := h.runProg_eq
  have hx := h.exec_eq
  have hk := h.keeps
  cases o with
  | done x v =>
    have hgo := h.underway (x := x) hu hx rfl
    rw [show (v.withAnswer (f x)).withAnswer u.answer = v from hk.2.2 ▸ rfl] at hgo
    exact ih x hgo (hrun.symm.trans hr)
  | stopped v =>
    cases hrun.symm.trans hr
    exact ⟨q, u, j, hu, h.next, hx⟩
  | refused r => cases hrun.symm.trans hr

/-- An instruction whose next transaction is stopped ends as that does (R92 step 2). -/
theorem Transacts.instruction_stopped {t : State} (hx : exec j u = .next t) (ha : t.answer = .stopped) :
    u.instruction q = .next t := by
  rw [h.exec_eq] at hx
  rcases TxOut.report_next hx with ⟨x, v, -, rfl⟩ | ⟨v, rfl, rfl⟩
  · exact absurd ha (h.report_ne x)
  · rw [State.instruction, h.runProg_eq]; rfl

theorem Transacts.instruction_refused {r : Refusal} (hx : exec j u = .refused r) : u.instruction q = .refused r := by
  have hrun := h.runProg_eq
  rw [h.exec_eq] at hx
  cases o with
  | done | stopped => cases hx
  | refused => cases hx; rw [State.instruction, hrun]; rfl

end

/-- A program whose rest is stopped has come to a transaction that is (R92 step 1). -/
theorem Underway.stoppedAt {s t : State} {p : CoreProg} (q : CoreProg) :
    ∀ {u : State}, Underway s p q u → runProg q u = .stopped t → StoppedAt s p t := by
  induction q with
  | complete | unknownOpcode => intro u _ hr; cases hr
  | memRd a k ih => exact fun hu hr => (Transacts.memRd _ a k).stoppedAt hu hr ih
  | memWr a b k ih => exact fun hu hr => (Transacts.memWr _ a b k).stoppedAt hu hr fun _ => ih
  | portRd a k ih => exact fun hu hr => (Transacts.portRd _ a k).stoppedAt hu hr ih
  | portWr a b k ih => exact fun hu hr => (Transacts.portWr _ a b k).stoppedAt hu hr fun _ => ih
  | axrRd id n k ih => exact fun hu hr => (Transacts.axrRd _ id n k).stoppedAt hu hr ih
  | axrWr id n v k ih => exact fun hu hr => (Transacts.axrWr _ id n v k).stoppedAt hu hr ih
  | undetermined k ih => exact fun hu hr => ih _ hu.undetermined hr

/-! ## The event that stops a transaction -/

/-- A transaction that nobody answers is not stopped (20_memory.md R66, R67). -/
theorem Issues.of_stopped {q : CoreProg} {j : Instr} {u t : State} (h : nextTransaction q = some j)
    (hx : exec j u = .next t) (ha : t.answer = .stopped) : ∃ id d tx, Issues u j id d tx := by
  cases q with
  | memRd a k =>
    cases h
    rcases hm : u.memTarget a with _ | ⟨id, d, st⟩
    · rw [exec, execMemrd, State.memRead_unanswered hm] at hx; cases hx; cases ha
    · exact ⟨_, _, _, .memRead hm⟩
  | memWr a b k =>
    cases h
    rcases hm : u.memTarget a with _ | ⟨id, d, st⟩
    · rw [exec, execMemwr, State.memWrite_unanswered b hm] at hx; cases hx; cases ha
    · exact ⟨_, _, _, .memWrite hm⟩
  | portRd a k =>
    cases h
    rcases hm : u.portTarget a with _ | ⟨id, d⟩
    · rw [exec, execPortrd, State.portRead_unanswered hm] at hx; cases hx; cases ha
    · exact ⟨_, _, _, .portRead hm⟩
  | portWr a b k =>
    cases h
    rcases hm : u.portTarget a with _ | ⟨id, d⟩
    · rw [exec, execPortwr, State.portWrite_unanswered b hm] at hx; cases hx; cases ha
    · exact ⟨_, _, _, .portWrite hm⟩
  | axrRd id n k =>
    cases h
    obtain ⟨v, m, he⟩ := axrReadOp_eq u id (axrReg n).read
    cases (show axrReadOp id (axrReg n).read u = .next t from hx).symm.trans he
    cases ha
  | axrWr id n v k =>
    cases h
    rcases hd : u.answering id with _ | d
    · cases (show axrWriteOp id n (axrReg n) v u = .next t from hx).symm.trans (axrWriteOp_unanswered hd n _ v)
      cases ha
    · exact ⟨_, _, _, .axrWrite (.inl rfl) hd⟩
  | complete | unknownOpcode | undetermined => cases h

/-- Event `c` of kind `k` triggers in `u` at device `d`, and `t` has the devices, the memory and the PROC's registers that it
leaves (60_exceptions.md R146 to R148, R154). -/
def TriggersTo (u t : State) (k : EventKind) (id : DevId) (d : Device) (c : Byte) (a x : Word) : Prop :=
  ∃ w, u.occur k id d c a x = .ok (.stopped, w) ∧ t.devs = w.devs ∧ t.mem = u.mem ∧
    t.core = if (d.flags c).getLsbD 9 then { u.core with pc := d.emvr } else u.core

theorem TriggersTo.of_occur {u w : State} {k : EventKind} {id : DevId} {d : Device} {c : Byte} {a x : Word}
    (h : u.occur k id d c a x = .ok (.stopped, w)) (b : Byte) (n : Nat) (r : Answer) :
    TriggersTo u (((w.withBus b).drawn n).withAnswer r) k id d c a x := by
  obtain ⟨-, -, -, -, hmem, -, -, -, hcore⟩ := State.occur_stopped_frame h
  exact ⟨w, h, rfl, hmem, hcore⟩

/-- A transaction that is stopped ends by an event of a code it raises at the device that answers it (60_exceptions.md R141,
R144, R151). -/
theorem Issues.triggersTo {u t : State} {j : Instr} {id : DevId} {d : Device} {tx : Tx} (h : Issues u j id d tx)
    (hx : exec j u = .next t) (ha : t.answer = .stopped) :
    ∃ k c a x, c ∈ d.detects tx ∧ eventKind d.spec.kinds c = some k ∧ tx.records a x ∧
      TriggersTo u t k id d c a x := by
  have hp : (d.detects tx).all d.passes = false := Bool.eq_false_iff.2 fun hp => by
    obtain ⟨t', ht', hans, -⟩ := h.performed hp
    cases hx.symm.trans ht'
    exact hans ha
  obtain ⟨α, b, f, g, r, he⟩ := h.exec_eq
  obtain ⟨c, hc, hpass, k, hk, hev⟩ := State.afterEvents_blocked (u.withBus b) id f g hp
  refine ⟨k, c, _, _, hc, hk, tx.records_event u.draws, ?_⟩
  rw [State.occur_withBus, State.withBus_draws] at hev
  rw [he, hev] at hx
  rcases State.occur_blocked (s := u) (id := id) (tx.eventAddr u.draws) (tx.eventData (u.draws + 1)) hk hpass with
    ⟨w, hw⟩ | ⟨e, hw⟩
  · rw [hw] at hx
    cases hx
    exact .of_occur hw b 2 .stopped
  · rw [hw] at hx; cases hx

/-! ## Programs that write no memory -/

/-- The program's transactions are memory reads. -/
inductive ReadsOnly : CoreProg → Prop
  | complete (c : Core) : ReadsOnly (.complete c)
  | memRd {a : Word} {k : Byte → CoreProg} (h : ∀ b, ReadsOnly (k b)) : ReadsOnly (.memRd a k)
  | undetermined {k : Byte → CoreProg} (h : ∀ b, ReadsOnly (k b)) : ReadsOnly (.undetermined k)

/-- The programs of `LD HL, nn` and `AND A, B` (R93, R94). -/
theorem Executes.readsOnly {s : State} {i : Instr} {p : CoreProg} (h : Executes s i p) (hi : i ≠ .procstep) :
    ReadsOnly p := by
  cases h with
  | procstep => exact absurd rfl hi
  | ldHlNn => exact .memRd fun _ => .memRd fun _ => .memRd fun _ => .complete _
  | andAB => exact .memRd fun _ => .undetermined fun _ => .complete _

/-- Such a program under way has left memory as it was. -/
theorem Underway.mem_of_readsOnly {s u : State} {p q : CoreProg} (h : Underway s p q u) (hp : ReadsOnly p) :
    ReadsOnly q ∧ u.mem = s.mem := by
  induction h with
  | start => exact ⟨hp, rfl⟩
  | @memRd a k u w b h hx ha ih =>
    obtain ⟨hq, hmem⟩ := ih
    obtain ⟨v, ho, -⟩ := TxOut.done_of_report (u.memRead_keeps a) hx (by simp [ha])
    obtain ⟨b', n, hw⟩ := State.memRead_done_frame ho
    cases hq with
    | memRd hk => exact ⟨hk b, (congrArg State.mem hw).trans hmem⟩
  | undetermined h ih =>
    obtain ⟨hq, hmem⟩ := ih
    cases hq with
    | undetermined hk => exact ⟨hk _, hmem⟩
  | memWr _ _ _ ih | portRd _ _ _ ih | portWr _ _ _ ih | axrRd _ _ _ ih | axrWr _ _ _ ih => cases ih.1

/-! ## Abandoned instructions -/

/-- An instruction that is stopped has come to a transaction that an event stops, or to an unknown opcode, whose event
triggers (R92 step 2, R95). -/
theorem Executes.of_stopped {s t : State} {i : Instr} {p : CoreProg} (h : Executes s i p) (hx : exec i s = .next t)
    (ha : t.answer = .stopped) :
    ∃ (q : CoreProg) (u : State) (id : DevId) (d : Device) (k : EventKind) (c : Byte) (a x : Word), Underway s p q u ∧
      ((∃ j tx, nextTransaction q = some j ∧ exec j u = .next t ∧ Issues u j id d tx ∧ c ∈ d.detects tx ∧
          eventKind d.spec.kinds c = some k ∧ tx.records a x) ∨
        (q = .unknownOpcode ∧ id = s.hw.procId ∧ u.dev? id = some d ∧ c = s.hw.invalidCode ∧ k = .compulsory)) ∧
      TriggersTo u t k id d c a x := by
  rw [h.exec_eq] at hx
  rcases State.instruction_next hx with ⟨c, u, -, rfl⟩ | ⟨v, hr, rfl⟩ | ⟨u, hr, hinv⟩
  · cases ha
  · obtain ⟨q, u, j, hu, hj, hjx⟩ := Underway.stoppedAt p .start hr
    obtain ⟨id, d, tx, hiss⟩ := Issues.of_stopped hj hjx rfl
    obtain ⟨k, c, a, x, hc, hk, hrec, htrig⟩ := hiss.triggersTo hjx rfl
    exact ⟨q, u, id, d, k, c, a, x, hu, .inl ⟨j, tx, hj, hjx, hiss, hc, hk, hrec⟩, htrig⟩
  · have hu := Underway.of_runProg p .start hr
    obtain ⟨hhw, -⟩ := hu.keeps
    rcases State.invalidInstr_next hinv with hn | ⟨d, a, x, w, hd, ho, rfl⟩
    · cases ha.symm.trans hn
    · rw [hhw] at hd ho
      exact ⟨_, u, _, d, _, _, a, x, hu, .inr ⟨rfl, rfl, hd, rfl, rfl⟩, .of_occur ho w.busLast 2 .stopped⟩

/-- Settles O60. -/
theorem abandonedInstructionKeepsRegisters : Obligations.AbandonedInstructionKeepsRegisters := by
  refine fun s i => ⟨fun t nn hi hx ha => ?_, fun p q u j hp hu hj => ?_⟩
  · obtain ⟨p, hp⟩ := Executes.of_next hi hx (by simp [ha])
    obtain ⟨q, u, id, d, k, c, a, x, hu, hcause, w, ho, hdevs, hmem, hcore⟩ := hp.of_stopped hx ha
    obtain ⟨-, hcore', -⟩ := hu.keeps
    rw [hcore'] at hcore
    exact ⟨fun hn => hmem.trans (hu.mem_of_readsOnly (hp.readsOnly hn)).2,
      p, q, u, w, id, d, k, c, a, x, hp, hu, hcause, ho, hdevs, hmem, hcore⟩
  · obtain ⟨α, o, f, k, h⟩ := Transacts.of_next hj u
    rw [hp.exec_eq, State.instruction_congr hu.runProg_eq]
    exact ⟨fun t => h.instruction_stopped, fun r => h.instruction_refused⟩

end Sys2Proof.Machine
end

section
/-! SUPPORT. The pre-defined AGAMA Extension Registers: the registers no write changes, EHCR and EMVR, the discard rule for
every register, and the procedure that programs an event's handling (41_axr_access.md R102 to R119). -/

namespace Sys2Proof.Machine

/-! ## The images of DIR, POCR and the byte registers -/

theorem dirImage_eq (id : DevId) : dirImage id = 0#12 ++ id := BitVec.setWidth_eq_append (by decide)

theorem byteAsWord_eq (b : Byte) : byteAsWord b = 0#8 ++ b := BitVec.setWidth_eq_append (by decide)

theorem pocrImage_eq (post : BitVec 4) (poc : BitVec 12) : pocrImage post poc = post ++ poc := by
  rw [pocrImage, BitVec.append_def, BitVec.shiftLeftZeroExtend_eq, BitVec.setWidth'_eq]

/-! ## The registers no write changes -/

/-- Settles O19: each reads its image, and a write to a register without writable bits compares with it. -/
theorem fixedRegisters : Obligations.FixedRegisters := by
  intro s id d v h
  rw [← dirImage_eq, ← pocrImage_eq]
  exact ⟨axrReadOp_answered h readDir, fun hc => axrWriteOp_readOnly h hc readDir,
    axrReadOp_answered h readPocr, fun hc => axrWriteOp_readOnly h hc readPocr,
    axrReadOp_answered h readDmr, fun hc => axrWriteOp_readOnly h hc readDmr,
    axrReadOp_answered h readDvr, fun hc => axrWriteOp_readOnly h hc readDvr⟩

/-- Settles O22: what holds of the fixed registers holds of these, whose images are the values recorded. -/
theorem eventRecordRegisters : Obligations.EventRecordRegisters := by
  intro s id d v h
  rw [← byteAsWord_eq]
  exact ⟨axrReadOp_answered h readDecr, fun hc => axrWriteOp_readOnly h hc readDecr,
    axrReadOp_answered h readDear, fun hc => axrWriteOp_readOnly h hc readDear,
    axrReadOp_answered h readDedr, fun hc => axrWriteOp_readOnly h hc readDedr,
    axrReadOp_answered h readDefr, fun hc => axrWriteOp_readOnly h hc readDefr⟩

/-! ## EHCR -/

/-- A word has no bit outside the writable ones of EHCR exactly if its high byte is 0 (R110). -/
theorem outside_ehcr_iff (v : Word) : v &&& ~~~0x00FF#16 = 0#16 ↔ highByte v = 0#8 :=
  (setWidth_extractLsb'_iff v 8).symm.trans ⟨fun h => h ▸ highByte_byteAsWord (lowByte v), byteAsWord_lowByte⟩

/-- The image of EHCR has 0 in its reserved bits (R109). -/
theorem byteAsWord_outside_ehcr (c : Byte) : byteAsWord c &&& ~~~0x00FF#16 = 0#16 :=
  (outside_ehcr_iff _).2 (highByte_byteAsWord c)

section
variable {s : State} {id : DevId} {d : Device} {v : Word} (h : s.answering id = some d)
include h

/-- A write of EHCR with a code selects that code and does nothing else (R110). -/
theorem axrWriteOp_ehcr_accepted (hc : d.carriesOut (.axrWrite 0x08#8 v) = true) (hv : highByte v = 0#8) :
    axrWriteOp id 0x08#8 regEhcr v s = .next ((s.setDev id { d with ehcr := lowByte v }).withAnswer .done) := by
  have hcur := byteAsWord_outside_ehcr d.ehcr
  have hout := (outside_ehcr_iff v).2 hv
  have hx := axrWriteOp_accepted (g := regEhcr) h hc ((changes_nothing_outside_iff hcur v).2 hout)
  rwa [show regEhcr.writable d = 0x00FF#16 from rfl, show (regEhcr.read s id d).1 = byteAsWord d.ehcr from rfl,
    masked_update_eq hcur hout] at hx

/-- Any other write of EHCR is discarded whole (R110). -/
theorem axrWriteOp_ehcr_discarded (hc : d.carriesOut (.axrWrite 0x08#8 v) = true) (hv : highByte v ≠ 0#8) :
    axrWriteOp id 0x08#8 regEhcr v s = .next (s.withAnswer .axrWriteError) :=
  axrWriteOp_discarded (g := regEhcr) h hc fun hq =>
    hv ((outside_ehcr_iff v).1 ((changes_nothing_outside_iff (byteAsWord_outside_ehcr d.ehcr) v).1 hq))

/-- After a write has replaced the device by one that also answers, that one answers. -/
theorem State.answering_written {e : Device} (hr : e.responds = d.responds) (a : Answer) :
    ((s.setDev id e).withAnswer a).answering id = some e :=
  (State.answering_withAnswer _ a id).trans (State.answering_setDev h hr)

end

/-- Settles O23: the device with the new code selected is the one EHFR then reads. -/
theorem ehcrRegister : Obligations.EhcrRegister := by
  intro s id d v h
  rw [← byteAsWord_eq]
  refine ⟨axrReadOp_answered h readEhcr, fun hc => ?_⟩
  split
  · next hv =>
    have ht := State.answering_written (e := { d with ehcr := lowByte v }) h rfl .done
    exact ⟨_, axrWriteOp_ehcr_accepted h hc hv, rfl, axrReadOp_answered ht readEhfr⟩
  · next hv => exact axrWriteOp_ehcr_discarded h hc hv

/-! ## EMVR -/

/-- Settles O25: with every bit writable no write is discarded and no bit is kept. -/
theorem emvrRegister : Obligations.EmvrRegister := by
  intro s id d v h
  refine ⟨axrReadOp_answered h readEmvr, fun hc => ?_⟩
  have hout : ∀ x : Word, x &&& ~~~0xFFFF#16 = 0#16 := fun x => BitVec.and_zero
  have hx := axrWriteOp_accepted (g := regEmvr) h hc (hout _)
  rwa [show regEmvr.writable d = 0xFFFF#16 from rfl, masked_update_eq (hout _) (hout v)] at hx

/-! ## The discard rule for every pre-defined register -/

theorem eq_ofNat_of_toNat_lt {m : Nat} {n : Byte} (hn : n.toNat < m) : ∃ k < m, n = BitVec.ofNat 8 k :=
  ⟨n.toNat, hn, by rw [BitVec.ofNat_toNat, BitVec.setWidth_eq]⟩

/-- The pre-defined registers are those with writable bits and the read-only ones (10_state.md R25). -/
theorem axrReg_predefined {n : Byte} (hn : n.toNat < 16) :
    (∃ r, axrReg n = readOnly r) ∨ (n = 0x08#8 ∧ axrReg n = regEhcr) ∨ (n = 0x09#8 ∧ axrReg n = regEhfr) ∨
      (n = 0x0A#8 ∧ axrReg n = regEmvr) := by
  have heq : ∀ m : Byte, n.toNat = m.toNat → n = m := fun m => BitVec.eq_of_toNat_eq
  unfold axrReg
  split
  case h_9 h => exact .inr (.inl ⟨heq _ h, rfl⟩)
  case h_10 h => exact .inr (.inr (.inl ⟨heq _ h, rfl⟩))
  case h_11 h => exact .inr (.inr (.inr ⟨heq _ h, rfl⟩))
  case h_17 => simp only [imp_false] at *; omega
  all_goals exact .inl ⟨_, rfl⟩

theorem axrReg_writable {n : Byte} (hn : n.toNat < 16) (d : Device) : (axrReg n).writable d = writableBits n := by
  obtain ⟨k, hk, rfl⟩ := eq_ofNat_of_toNat_lt hn
  interval_cases k <;> rfl

/-- A pre-defined register reads a value that the device and the sampled configuration determine, DSR where its
device-specific bits are fixed (R103 to R117). -/
theorem axrReg_read_fixed {n : Byte} (hn : n.toNat < 16) {d : Device} (hdsr : n = 0x04#8 → d.spec.dsrSpecific ≠ none)
    {s t : State} (ht : t.poc = s.poc) (id : DevId) :
    (axrReg n).read t id d = (((axrReg n).read s id d).1, 0) := by
  unfold axrReg
  split
  case h_2 => exact congrArg (fun poc => (pocrImage d.post poc, 0)) ht
  case h_5 h =>
    obtain ⟨b, hb⟩ := Option.ne_none_iff_exists'.1 (hdsr (BitVec.eq_of_toNat_eq h))
    show readDsr t id d = ((readDsr s id d).1, 0)
    simp only [readDsr, hb]
  case h_17 => simp only [imp_false] at *; omega
  all_goals rfl

/-- The new value of a register with writable bits `m`: of each of them the bit written, of every other the one kept
(R102). -/
def maskedUpdate (m cur v : Word) : Word := (cur &&& ~~~m) ||| (v &&& m)

@[simp] theorem maskedUpdate_zero (cur v : Word) : maskedUpdate 0#16 cur v = cur := by
  rw [maskedUpdate, BitVec.and_zero, BitVec.or_zero, BitVec.not_zero, BitVec.and_allOnes]

/-- The bits that are not writable are kept (R102). -/
theorem maskedUpdate_outside (m cur v : Word) : maskedUpdate m cur v &&& ~~~m = cur &&& ~~~m := by
  ext i hi
  simp only [maskedUpdate, BitVec.getElem_and, BitVec.getElem_or, BitVec.getElem_not]
  cases m[i] <;> simp

theorem regEhcr_read_write (s : State) (id : DevId) (d : Device) {w : Word} (hw : w &&& ~~~0x00FF#16 = 0#16) :
    regEhcr.read s id (regEhcr.write w d) = (w, 0) :=
  congrArg (Prod.mk · 0) (byteAsWord_lowByte ((outside_ehcr_iff w).1 hw))

theorem regEhfr_read_write (s : State) (id : DevId) (d : Device) (w : Word) :
    regEhfr.read s id (regEhfr.write w d) = (w, 0) :=
  congrArg (Prod.mk · 0) ((Device.flags_setFlags d d.ehcr d.ehcr w).trans (if_pos rfl))

/-- What a register that takes its new value reads afterwards is that value (R102). -/
theorem axrReg_read_write {n : Byte} (hn : n.toNat < 16) {d : Device} (hdsr : n = 0x04#8 → d.spec.dsrSpecific ≠ none)
    {s t : State} (ht : t.poc = s.poc) (id : DevId) (v : Word) {w : Word}
    (hw : maskedUpdate ((axrReg n).writable d) ((axrReg n).read s id d).1 v = w) :
    (axrReg n).read t id ((axrReg n).write w d) = (w, 0) := by
  have hfixed := axrReg_read_fixed hn hdsr ht id
  rcases axrReg_predefined hn with ⟨r, hr⟩ | ⟨-, hr⟩ | ⟨-, hr⟩ | ⟨-, hr⟩ <;> rw [hr] at hfixed hw ⊢
  · have hkept : (r s id d).1 = w := (maskedUpdate_zero _ v).symm.trans hw
    rw [← hkept]
    exact hfixed
  · refine regEhcr_read_write t id d ?_
    rw [← hw]
    exact (maskedUpdate_outside 0x00FF#16 _ v).trans (byteAsWord_outside_ehcr d.ehcr)
  · exact regEhfr_read_write t id d w
  · rfl

theorem axrReg_write_responds (n : Byte) (w : Word) (d : Device) : ((axrReg n).write w d).responds = d.responds := by
  obtain ⟨he, -⟩ := axrReg_writtenTo n w d
  rw [he]
  rfl

/-- After a register has taken its new value, its read returns that value (R102). -/
theorem axrReadOp_written {s : State} {id : DevId} {d : Device} {n : Byte} {v w : Word} (h : s.answering id = some d)
    (hn : n.toNat < 16) (hdsr : n = 0x04#8 → d.spec.dsrSpecific ≠ none)
    (hw : maskedUpdate ((axrReg n).writable d) ((axrReg n).read s id d).1 v = w) {t : State}
    (ht : t = (s.setDev id ((axrReg n).write w d)).withAnswer .done) :
    axrReadOp id (axrReg n).read t = .next (t.withAnswer (.word w)) := by
  have hanswers : t.answering id = some ((axrReg n).write w d) := by
    rw [ht]
    exact State.answering_written h (axrReg_write_responds n w d) .done
  have hpoc : t.poc = s.poc := by rw [ht]; rfl
  rw [axrReadOp_answered hanswers, axrReg_read_write hn hdsr hpoc id v hw]
  rfl

/-- Settles O28: the value read before is determined, so the write compares with it, and the new value is the one read
after. -/
theorem writeCheckedDiscards : Obligations.WriteCheckedDiscards := by
  intro s id d n v h hn hdsr hc
  have hmask := axrReg_writable hn d
  have hread := axrReg_read_fixed hn hdsr (s := s) rfl id
  generalize hcur : ((axrReg n).read s id d).1 = cur at hread
  have hbefore := axrReadOp_answered h (axrReg n).read
  rw [hread] at hbefore
  by_cases hv : (v ^^^ cur) &&& ~~~(writableBits n) = 0x0000#16
  · have hwrite := axrWriteOp_accepted (g := axrReg n) h hc (by rwa [hmask, hcur])
    rw [hmask, hread] at hwrite
    refine ⟨cur, _, hbefore, hwrite, ?_⟩
    rw [if_pos hv]
    exact ⟨rfl, axrReadOp_written h hn hdsr (by rw [hmask, hcur]; rfl) rfl⟩
  · have hwrite := axrWriteOp_discarded (g := axrReg n) h hc (by rwa [hmask, hcur])
    rw [hread] at hwrite
    refine ⟨cur, _, hbefore, hwrite, ?_⟩
    rw [if_neg hv]
    rfl

/-! ## Programming an event's handling -/

/-- Settles O30: selecting the code leaves the table, and every event of the second write, as they are. -/
theorem programEventHandling : Obligations.ProgramEventHandling := by
  intro s id d c f h hwf hf hc hc'
  have hcode : highByte (0#8 ++ c) = 0#8 := by rw [← byteAsWord_eq, highByte_byteAsWord]
  have hlow : lowByte (0#8 ++ c) = c := by rw [← byteAsWord_eq, lowByte_byteAsWord]
  have hselect := axrWriteOp_ehcr_accepted h hc hcode
  rw [hlow] at hselect
  have ht := State.answering_written (e := { d with ehcr := c }) h rfl .done
  obtain ⟨-, hwrite⟩ := ehfrRegister _ id _ f ht hwf
  have hput := hwrite hc'
  rw [if_pos hf] at hput
  obtain ⟨e, hx, -, hflags⟩ := hput
  exact ⟨_, _, hselect, hx, e, State.dev?_setDev_same (State.answering_dev ht).1, hflags⟩

end Sys2Proof.Machine
end

section
/-! SUPPORT. The system message CLEARSILENTFLAGS at every device (42_system_messages.md R125, R126; log entry 24). -/

namespace Sys2Proof.Machine

/-- The message changes the devices and reports (R125). -/
theorem exec_sysmsgClearsilentflags (s : State) :
    exec .sysmsgClearsilentflags s = .next (s.clearSilentFlags.withAnswer .done) := rfl

theorem clearKeeps_compatible : clearKeeps .compatible = ~~~0xC000#16 := rfl

theorem clearKeeps_monitor : clearKeeps .monitor = ~~~0x4000#16 := rfl

/-- Every device receives the message (R125; log entry 24). -/
theorem State.dev?_clearSilentFlags (s : State) (id : DevId) :
    s.clearSilentFlags.dev? id = (s.dev? id).map Device.clearSilent :=
  State.dev?_allDevs s Device.clearSilent id

/-- Settles O51: each device is cleared by its own mode, whose mask `Device.flags_clearSilent` applies to every entry of a
sound table. -/
theorem clearSilentFlagsMessage : Obligations.ClearSilentFlagsMessage := by
  intro s hwf
  refine ⟨_, exec_sysmsgClearsilentflags s, rfl, fun id d hd => ?_⟩
  have hsound : d.wf = true := (State.everyDev_iff s Device.wf).1 hwf d (State.mem_of_dev? hd)
  have hcleared : s.clearSilentFlags.dev? id = some d.clearSilent := by
    rw [State.dev?_clearSilentFlags, hd, Option.map_some]
  refine ⟨d.clearSilent, hcleared, rfl, fun c => ?_⟩
  rw [Device.flags_clearSilent hsound]
  cases d.mode with
  | compatible => rw [clearKeeps_compatible]
  | monitor => rw [clearKeeps_monitor]

end Sys2Proof.Machine
end

section
/-! SUPPORT. RESUME, and what ends a suspension (43_external_debugger.md R135; 60_exceptions.md R146, R165; log entry 6). -/

namespace Sys2Proof.Machine

/-! ## What RESUME does -/

/-- RESUME is enabled where every device is suspended and none is shut down (R135). -/
theorem State.resumable_iff (s : State) :
    s.resumable = true ↔ ∀ d, some d ∈ s.devs → d.susp = true ∧ d.shut = false := by
  simp [State.resumable, State.everyDev_iff]

theorem exec_resume_enabled {s : State} (h : s.resumable = true) :
    exec .resume s = .next (s.resumeAll.withAnswer .done) := if_pos h

theorem exec_resume_notEnabled {s : State} (h : ¬ s.resumable = true) :
    exec .resume s = .next (s.withAnswer .notEnabled) := if_neg h

/-- The suspension ends at every device (R135). -/
theorem State.dev?_resumeAll (s : State) (id : DevId) :
    s.resumeAll.dev? id = (s.dev? id).map fun d => { d with susp := false } :=
  State.dev?_allDevs s _ id

/-- Settles O52: one device that is not suspended, or is shut down, is enough for RESUME not to be enabled. -/
theorem resumeEndsSuspension : Obligations.ResumeEndsSuspension := by
  intro s
  refine ⟨fun hall => ?_, fun ⟨d, hd, hstop⟩ => exec_resume_notEnabled fun hr => ?_⟩
  · exact ⟨_, exec_resume_enabled (s.resumable_iff.2 hall), rfl, s.dev?_resumeAll⟩
  · obtain ⟨hsusp, hshut⟩ := s.resumable_iff.1 hr d hd
    simp [hsusp, hshut] at hstop

/-! ## What ends a suspension -/

/-- An operation is a chain of elementary changes, a RESUME that is enabled, or Power-On. -/
theorem exec_opChain_or_control {i : Instr} {s t : State} (h : exec i s = .next t) :
    OpChain s t ∨ (i = .resume ∧ s.resumable = true ∧ t = s.resumeAll.withAnswer .done) ∨ ∃ cfg, i = .poweron cfg := by
  cases hi : isControl i with
  | false => exact .inl (exec_opChain hi h)
  | true =>
    cases i
    case poweron cfg => exact .inr (.inr ⟨cfg, rfl⟩)
    case resume =>
      rcases exec_resume h with ⟨hr, ht⟩ | ⟨-, rfl⟩
      · exact .inr (.inl ⟨rfl, hr, ht⟩)
      · exact .inl (.report s _)
    all_goals cases hi

/-- The elementary changes suspend a device or leave its suspension (60_exceptions.md R146). -/
theorem Device.susp_closed : DeviceClosed true fun d e => d.susp = true → e.susp = true where
  refl _ h := h
  trans h₁ h₂ h := h₂ (h₁ h)
  ehcr _ _ h := h
  flags _ _ _ _ h := h
  emvr _ _ h := h
  devAxr _ _ _ h := h
  clear _ h := h
  trigger _ _ _ _ _ _ _ h := h
  suspend _ _ _ := rfl
  shutdown _ _ h := h
  monitor _ _ h := h

theorem OpChain.susp {s t : State} (h : OpChain s t) {id : DevId} {d : Device} (hd : s.dev? id = some d)
    (hs : d.susp = true) : ∃ e, t.dev? id = some e ∧ e.susp = true := by
  obtain ⟨e, he, hkeep⟩ := Device.susp_closed.chain h.1 id d hd
  exact ⟨e, he, hkeep hs⟩

/-- Settles O15: no chain of elementary changes ends a suspension, which leaves a RESUME that is enabled and Power-On. -/
theorem onlyResumeOrPowerOnEndsSuspension : Obligations.OnlyResumeOrPowerOnEndsSuspension := by
  intro s t id d h hd hs
  rcases step_cases h with ⟨-, hx⟩ | ⟨i, rest, hdec, hx⟩
  · exact .inl ((exec_opChain rfl hx).susp hd hs)
  · rcases exec_opChain_or_control hx with hc | ⟨rfl, hr, -⟩ | ⟨cfg, rfl⟩
    · exact .inl (hc.susp (s := s.withPending rest) hd hs)
    · obtain ⟨-, hshut⟩ := (State.resumable_iff (s.withPending rest)).1 hr d (State.mem_of_dev? hd)
      exact .inr (.inl ⟨rest, hdec, hshut⟩)
    · exact .inr (.inr ⟨cfg, rest, hdec⟩)

end Sys2Proof.Machine
end

section
/-! SUPPORT. What only Power-On ends: Monitor Mode and Shutdown (60_exceptions.md R148, R156, R159; 70_reset_and_hazards.md R180,
R184; log entry 28). -/

namespace Sys2Proof.Machine

/-- A device in Monitor Mode stays in it, and one that is shut down stays so. -/
def Device.Latches (d e : Device) : Prop := (d.mode = .monitor → e.mode = .monitor) ∧ (d.shut = true → e.shut = true)

theorem Device.Latches.refl (d : Device) : d.Latches d := ⟨id, id⟩

/-- The elementary changes enter Monitor Mode and Shutdown and leave neither (60_exceptions.md R147, R148). -/
theorem Device.latches_closed : DeviceClosed true Device.Latches where
  refl := .refl
  trans := fun ⟨hmode, hshut⟩ ⟨hmode', hshut'⟩ => ⟨hmode' ∘ hmode, hshut' ∘ hshut⟩
  ehcr d _ := .refl d
  flags d _ _ _ := .refl d
  emvr d _ := .refl d
  devAxr d _ _ := .refl d
  clear d := .refl d
  trigger _ _ _ d _ _ _ := .refl d
  suspend _ d := .refl d
  shutdown _ _ := ⟨id, fun _ => rfl⟩
  monitor _ _ := ⟨fun _ => rfl, id⟩

/-- No step but Power-On leaves Monitor Mode or Shutdown. -/
theorem step_latches {s t : State} (h : step s = .next t)
    (hp : ¬∃ cfg rest, decode s.pending = .ok (.poweron cfg, rest)) : Devwise Device.Latches s t := by
  rcases step_opChain_or_resume h fun cfg rest hd => hp ⟨cfg, rest, hd⟩ with ⟨hc, -⟩ | ⟨rest, rfl⟩
  · exact Device.latches_closed.chain hc
  · exact Devwise.resumeAll (R := Device.Latches) (fun d => .refl d) (s.withPending rest)

theorem step_poweron {s t : State} {cfg : BitVec 12} {rest : List Byte} (h : step s = .next t)
    (hd : decode s.pending = .ok (.poweron cfg, rest)) : t = ((s.withPending rest).powerOn cfg).withAnswer .done := by
  obtain ⟨-, hdecoded, -⟩ := stepRunsTheDecodedOperation s
  rw [hdecoded _ _ hd] at h
  exact (exec_poweron h).2

/-- Power-On with configuration bit 9 set starts every device in Monitor Mode (70_reset_and_hazards.md R184). -/
theorem State.powerOn_monitor (s : State) {cfg : BitVec 12} (h : cfg.getLsbD 9 = true) {id : DevId} {d : Device}
    (hd : s.dev? id = some d) : ∃ e, (s.powerOn cfg).dev? id = some e ∧ e.mode = .monitor := by
  refine ⟨_, by rw [State.dev?_powerOn, hd, Option.map_some], ?_⟩
  show powerOnMode (cfg &&& definedConfig s.hw.sms1Bit) = .monitor
  rw [powerOnMode, (definedConfig_bits _ cfg).1, if_pos h]

/-- Settles O13: Power-On alone can end Monitor Mode, and with bit 9 set it starts in it. -/
theorem onlyPowerOnLeavesMonitorMode : Obligations.OnlyPowerOnLeavesMonitorMode := by
  intro s t id d h hd hm
  by_cases hp : ∃ cfg rest, decode s.pending = .ok (.poweron cfg, rest)
  · obtain ⟨cfg, rest, hdec⟩ := hp
    cases h9 : cfg.getLsbD 9 with
    | false => exact .inr ⟨cfg, rest, hdec, h9⟩
    | true =>
      obtain ⟨e, he, hmode⟩ := State.powerOn_monitor (s.withPending rest) h9 hd
      exact .inl ⟨e, by rw [step_poweron h hdec, State.dev?_withAnswer, he], hmode⟩
  · obtain ⟨e, he, hmode, -⟩ := step_latches h hp id d hd
    exact .inl ⟨e, he, hmode hm⟩

/-- Settles O14. -/
theorem onlyPowerOnLeavesShutdown : Obligations.OnlyPowerOnLeavesShutdown := by
  intro s t id d h hd hs
  by_cases hp : ∃ cfg rest, decode s.pending = .ok (.poweron cfg, rest)
  · exact .inr hp
  · obtain ⟨e, he, -, hshut⟩ := step_latches h hp id d hd
    exact .inl ⟨e, he, hshut hs⟩

end Sys2Proof.Machine
end

section
/-! SUPPORT. Events: silencing, mechanisms, what a trigger records and silences, and what it leaves unchanged (60_exceptions.md
R137 to R160; 20_memory.md R67). -/

namespace Sys2Proof.Machine

/-! ## Silencing and mechanisms -/

/-- The silent flag of the device's own mode decides, and none silences a compulsory event (R143). -/
theorem silenced_iff (k : EventKind) (m : Mode) (f : Word) :
    silenced k m f = true ↔
      k ≠ .compulsory ∧ (m = .compatible ∧ f.getLsbD 15 = true ∨ m = .monitor ∧ f.getLsbD 14 = true) := by
  cases m <;> simp [silenced]

/-- Each of the Shutdown, Monitor Mode and Suspend flags names a mechanism (R142, R149). -/
theorem hasMechanism_of_bit {f : Word} {n : Nat} (hn : (0x0700#16).getLsbD n = true) (h : f.getLsbD n = true) :
    hasMechanism f = true := by
  rw [hasMechanism_iff]
  intro hz
  have hb : (f &&& 0x0700#16).getLsbD n = true := by rw [BitVec.getLsbD_and, h, hn]; rfl
  rw [hz, BitVec.getLsbD_zero] at hb
  cases hb

/-! ## How an occurrence ends -/

theorem State.occur_silenced {s : State} {k : EventKind} {id : DevId} {d : Device} {c : Byte}
    (h : silenced k d.mode (d.flags c) = true) (a x : Word) : s.occur k id d c a x = .ok (.silenced, s) := by
  unfold State.occur
  rw [if_pos h]

/-- An unsilenced event whose entry names no mechanism (R142, R149; log entry 27). -/
theorem State.occur_unhandled {s : State} {k : EventKind} {id : DevId} {d : Device} {c : Byte}
    (h : silenced k d.mode (d.flags c) = false) (hm : hasMechanism (d.flags c) = false) (a x : Word) :
    s.occur k id d c a x = if k = .compulsory then .error .compulsoryEventUnhandled else .ok (.ignored, s) := by
  unfold State.occur
  rw [if_neg (by simp [h]), if_neg (by simp [hm])]
  cases k <;> rfl

section
variable {s : State} {k : EventKind} {id : DevId} {d : Device} {c : Byte}
  (h : silenced k d.mode (d.flags c) = false) (hm : hasMechanism (d.flags c) = true)
include h hm

/-- An unsilenced event whose entry names a mechanism is recorded and handled (R142). -/
theorem State.occur_handled (a x : Word) :
    s.occur k id d c a x =
      ((s.setDev id (d.recordTrigger s.hw k c a x)).handle d (d.flags c)).map (Prod.mk .stopped) := by
  unfold State.occur
  rw [if_neg (by simp [h]), if_pos hm]
  cases (s.setDev id (d.recordTrigger s.hw k c a x)).handle d (d.flags c) <;> rfl

/-- It is refused as its handling is (R157, R160). -/
theorem State.occur_refused {r : Refusal} (hh : ∀ e, (s.setDev id e).handle d (d.flags c) = .error r) (a x : Word) :
    s.occur k id d c a x = .error r := by
  rw [State.occur_handled h hm, hh]; rfl

/-- It triggers where Monitor Mode, if asked for, can be entered (R145 to R148). -/
theorem State.occur_triggers (h9 : (d.flags c).getLsbD 9 = true → s.hw.monitorPresent = true ∧ d.mode = .compatible)
    (a x : Word) : ∃ u, s.occur k id d c a x = .ok (.stopped, u) := by
  obtain ⟨u, hu, -⟩ := State.handle_ok (s := s.setDev id (d.recordTrigger s.hw k c a x)) (d := d) h9
  exact ⟨u, by rw [State.occur_handled h hm, hu]; rfl⟩

end

/-- Handling that goes through changes every device alike (R146 to R148). -/
theorem State.dev?_handle {s t : State} {d : Device} {f : Word} (h : s.handle d f = .ok t) (id : DevId) :
    t.dev? id = (s.dev? id).map (Device.handled · f) := by
  have h9 : f.getLsbD 9 = true → s.hw.monitorPresent = true ∧ d.mode = .compatible := fun h9 => by
    rcases State.handle_cases h with ⟨-, hp, hm, -⟩ | ⟨hn, -⟩ | ⟨hn, -⟩ | ⟨hn, -⟩
    · exact ⟨hp, hm⟩
    all_goals exact absurd (h9.symm.trans hn) nofun
  obtain ⟨t', ht', hdev⟩ := State.handle_ok h9
  cases h.symm.trans ht'
  exact hdev id

section
variable {s u : State} {k : EventKind} {id : DevId} {d : Device} {c : Byte} {a x : Word}
  (ho : s.occur k id d c a x = .ok (.stopped, u))
include ho

theorem State.occur_stopped_handle : (s.setDev id (d.recordTrigger s.hw k c a x)).handle d (d.flags c) = .ok u := by
  rcases State.occur_cases ho with ⟨hx, -⟩ | ⟨hx, -⟩ | ⟨-, -, -, hh⟩
  · cases hx
  · cases hx
  · exact hh

/-- The device at which an event triggers: recorded, then handled (R142). -/
theorem State.dev?_occur_same (hd : s.dev? id = some d) :
    u.dev? id = some ((d.recordTrigger s.hw k c a x).handled (d.flags c)) := by
  rw [State.dev?_handle (State.occur_stopped_handle ho), State.dev?_setDev_same hd, Option.map_some]

/-- Every other device is handled alone (R145 to R148). -/
theorem State.dev?_occur_other {id' : DevId} (hid : id' ≠ id) :
    u.dev? id' = (s.dev? id').map (Device.handled · (d.flags c)) := by
  rw [State.dev?_handle (State.occur_stopped_handle ho), State.dev?_setDev_other s _ hid]

/-- How a trigger leaves what the system shares, at its own device as at every other (R145 to R148). -/
theorem State.dev?_occur_shared (hd : s.dev? id = some d) {id' : DevId} {e : Device} (he : s.dev? id' = some e) :
    ∃ e', u.dev? id' = some e' ∧ e'.mode = (if (d.flags c).getLsbD 9 then .monitor else e.mode) ∧
      e'.susp = (e.susp || (d.flags c).getLsbD 8) ∧
      e'.shut = (e.shut || ((d.flags c).getLsbD 10 && !(d.flags c).getLsbD 9 && !(d.flags c).getLsbD 8)) := by
  by_cases hid : id' = id
  · subst hid
    cases hd.symm.trans he
    exact ⟨_, State.dev?_occur_same ho hd, rfl, rfl, rfl⟩
  · exact ⟨_, (State.dev?_occur_other ho hid).trans (congrArg _ he), rfl, rfl, rfl⟩

end

/-! ## EVENT -/

/-- How EVENT can end when it is not refused: not enabled, or as the occurrence of an event its device defines (R142; log entry
41). -/
theorem exec_event_cases {s t : State} {id : DevId} {c : Byte} {a x : Word} (h : exec (.event id c a x) s = .next t) :
    t = s.withAnswer .notEnabled ∨ ∃ d k r u, s.dev? id = some d ∧ eventKind d.spec.kinds c = some k ∧
      s.occur k id d c a x = .ok (r, u) ∧ t = u.withAnswer (.event r) := by
  simp only [exec, execEvent] at h
  split at h
  · cases h; exact .inl rfl
  · next d hd =>
    split at h
    · cases h; exact .inl rfl
    · next k hk =>
      split at h
      · next r u ho => cases h; exact .inr ⟨d, k, r, u, hd, hk, ho, rfl⟩
      · cases h

/-- An EVENT that reports how its event ended performed it. -/
theorem exec_event_reports {s t : State} {id : DevId} {d : Device} {c : Byte} {a x : Word} {r : OccurResult}
    (hd : s.dev? id = some d) (h : exec (.event id c a x) s = .next t) (ha : t.answer = .event r) :
    ∃ k u, eventKind d.spec.kinds c = some k ∧ s.occur k id d c a x = .ok (r, u) ∧ t = u.withAnswer (.event r) := by
  rcases exec_event_cases h with rfl | ⟨d', k, r', u, hd', hk, ho, rfl⟩
  · cases ha
  · cases hd.symm.trans hd'
    cases ha
    exact ⟨k, u, hk, ho, rfl⟩

section
variable {s : State} {id : DevId} {d : Device} {c : Byte} {k : EventKind} (hd : s.dev? id = some d)
  (hk : eventKind d.spec.kinds c = some k)
include hd hk

theorem exec_event_silenced (h : silenced k d.mode (d.flags c) = true) (a x : Word) :
    exec (.event id c a x) s = .next (s.withAnswer (.event .silenced)) :=
  exec_event_occurs hd hk (State.occur_silenced h a x)

/-- An event that triggers as an operation: what it leaves of the PROC and of what the devices share (R145 to R148). -/
theorem exec_event_triggers (h : silenced k d.mode (d.flags c) = false) (hm : hasMechanism (d.flags c) = true)
    (h9 : (d.flags c).getLsbD 9 = true → s.hw.monitorPresent = true ∧ d.mode = .compatible) (a x : Word) :
    ∃ t, exec (.event id c a x) s = .next t ∧ t.answer = .event .stopped ∧
      t.core = (if (d.flags c).getLsbD 9 then { s.core with pc := d.emvr } else s.core) ∧
      ∀ id' e, s.dev? id' = some e → ∃ e', t.dev? id' = some e' ∧
        e'.mode = (if (d.flags c).getLsbD 9 then .monitor else e.mode) ∧
        e'.susp = (e.susp || (d.flags c).getLsbD 8) ∧
        e'.shut = (e.shut || ((d.flags c).getLsbD 10 && !(d.flags c).getLsbD 9 && !(d.flags c).getLsbD 8)) := by
  obtain ⟨u, hu⟩ := State.occur_triggers (s := s) (id := id) h hm h9 a x
  obtain ⟨-, -, -, -, -, -, -, -, hcore⟩ := State.occur_stopped_frame hu
  exact ⟨_, exec_event_occurs hd hk hu, rfl, hcore, fun _ _ => State.dev?_occur_shared hu hd⟩

end

/-- Settles O42. -/
theorem eventSilencedExactly : Obligations.EventSilencedExactly := by
  intro s id d c k a x hd hk
  rw [← silenced_iff]
  refine ⟨fun hx => ?_, fun hs => exec_event_silenced hd hk hs a x⟩
  obtain ⟨k', u, hk', ho, -⟩ := exec_event_reports hd hx rfl
  cases hk.symm.trans hk'
  rcases State.occur_cases ho with ⟨-, -, hs⟩ | ⟨hr, -⟩ | ⟨hr, -⟩
  · exact hs
  · cases hr
  · cases hr

/-- Settles O43. -/
theorem eventWithoutMechanism : Obligations.EventWithoutMechanism := by
  intro s id d c k a x hd hk hs h0
  have hm : hasMechanism (d.flags c) = false := Bool.eq_false_iff.2 fun h => (hasMechanism_iff _).1 h h0
  have ho := State.occur_unhandled (s := s) (id := id) hs hm a x
  split at ho
  · next hc => rw [if_pos hc]; exact exec_event_refused hd hk ho
  · next hc => rw [if_neg hc]; exact exec_event_occurs hd hk ho

/-- Settles O44: the refusals of Monitor Mode, and the handling of every other trigger by the bits of its entry. -/
theorem eventMechanisms : Obligations.EventMechanisms := by
  intro s id d c k a x hd hk hs
  refine ⟨fun h9 hp => ?_, fun h9 hp hmode => ?_, fun h9 hp hmode => ?_, fun h9 h8 => ?_, fun h9 h8 h10 => ?_⟩
  · exact exec_event_refused hd hk
      (State.occur_refused hs (hasMechanism_of_monitor h9) (fun _ => State.handle_absent d h9 hp) a x)
  · exact exec_event_refused hd hk
      (State.occur_refused hs (hasMechanism_of_monitor h9) (fun _ => State.handle_reentry h9 hp hmode) a x)
  · simpa only [h9, if_true, Bool.not_true, Bool.and_false, Bool.false_and, Bool.or_false] using
      exec_event_triggers hd hk hs (hasMechanism_of_monitor h9) (fun _ => ⟨hp, hmode⟩) a x
  · simpa only [h9, h8, Bool.false_eq_true, if_false, Bool.not_true, Bool.and_false, Bool.or_true, Bool.or_false] using
      exec_event_triggers hd hk hs (hasMechanism_of_bit rfl h8) (fun h => absurd (h9.symm.trans h) nofun) a x
  · simpa only [h9, h8, h10, Bool.false_eq_true, if_false, Bool.not_false, Bool.and_true, Bool.or_true, Bool.or_false] using
      exec_event_triggers hd hk hs (hasMechanism_of_bit rfl h10) (fun h => absurd (h9.symm.trans h) nofun) a x

/-- Settles O49: no silent flag silences a compulsory event, and either flag names a mechanism. -/
theorem compulsoryAlwaysTriggers : Obligations.CompulsoryAlwaysTriggers := by
  intro s id d c a x hd hk h9 h
  have hm : hasMechanism (d.flags c) = true := h.elim (hasMechanism_of_bit rfl) (hasMechanism_of_bit rfl)
  obtain ⟨t, ht, hans, -⟩ := exec_event_triggers hd hk rfl hm (fun h => absurd (h9.symm.trans h) nofun) a x
  exact ⟨t, ht, hans⟩

/-! ## What a trigger records and silences -/

/-- The entries after a trigger: its own silenced where it is a breakpoint's (R150). -/
theorem Device.flags_recordTrigger (hw : Hardware) (k : EventKind) (d : Device) (c : Byte) (a x : Word) (c' : Byte) :
    (d.recordTrigger hw k c a x).flags c' =
      if c' = c then flagsAfterTrigger k hw.bpSilence d.mode (d.flags c) else d.flags c' :=
  Device.flags_setFlags d c c' _

/-- DEFR after a trigger (R144). -/
theorem Device.defr_recordTrigger (hw : Hardware) (k : EventKind) (d : Device) (c : Byte) (a x : Word) :
    (d.recordTrigger hw k c a x).defr = recordedFlags hw (d.flags c) (d.recordTrigger hw k c a x) c := by
  rw [recordedFlags, Device.flags_recordTrigger, if_pos rfl]
  unfold Device.recordTrigger
  cases hw.defrCopy <;> rfl

theorem silenceSet_eq (hw : Hardware) (m : Mode) : silenceSet hw.bpSilence m = breakpointSilence hw m := by
  unfold breakpointSilence
  cases hw.bpSilence <;> cases m <;> rfl

/-- A breakpoint's own entry silences it in the mode it triggered in (R143, R150). -/
theorem silenced_flagsAfterTrigger (bp : BpSilence) (m : Mode) (f : Word) :
    silenced .breakpoint m (flagsAfterTrigger .breakpoint bp m f) = true := by
  cases bp <;> cases m <;> simp [silenced, flagsAfterTrigger, silenceSet, flagCS, flagMS]

/-- The device at which an EVENT triggers, after it (R142). -/
theorem exec_event_stopped {s t : State} {id : DevId} {d : Device} {c : Byte} {a x : Word} (hd : s.dev? id = some d)
    (h : exec (.event id c a x) s = .next t) (ha : t.answer = .event .stopped) :
    ∃ k, eventKind d.spec.kinds c = some k ∧
      t.dev? id = some ((d.recordTrigger s.hw k c a x).handled (d.flags c)) := by
  obtain ⟨k, u, hk, ho, rfl⟩ := exec_event_reports hd h ha
  exact ⟨k, hk, (State.dev?_withAnswer u _ id).trans (State.dev?_occur_same ho hd)⟩

/-- Settles O46. -/
theorem breakpointSilencesItself : Obligations.BreakpointSilencesItself := by
  intro s t id d c k a x hd hk h ha
  obtain ⟨k', hk', he⟩ := exec_event_stopped hd h ha
  cases hk.symm.trans hk'
  refine ⟨_, he, fun c' => ?_⟩
  rw [Device.handled_flags, Device.flags_recordTrigger]
  by_cases hc : c' = c
  · subst hc
    cases k with
    | breakpoint => rw [if_pos rfl, if_pos ⟨rfl, rfl⟩, flagsAfterTrigger, silenceSet_eq]
    | compulsory | protection => rw [if_pos rfl, if_neg (by simp)]; rfl
  · rw [if_neg hc, if_neg fun h => hc h.1]

/-- Settles O50: the mode is the one the breakpoint triggered in, and its entry now silences it there. -/
theorem breakpointPassesOnRetry : Obligations.BreakpointPassesOnRetry := by
  intro s t id d c a x hd hk h9 h ha
  obtain ⟨k, hk', he⟩ := exec_event_stopped hd h ha
  cases hk.symm.trans hk'
  refine exec_event_silenced he hk ?_ a x
  have hmode : ((d.recordTrigger s.hw .breakpoint c a x).handled (d.flags c)).mode = d.mode := by
    simp only [Device.handled, h9, Bool.false_eq_true, if_false, Device.recordTrigger_mode]
  rw [hmode, Device.handled_flags, Device.flags_recordTrigger, if_pos rfl]
  exact silenced_flagsAfterTrigger s.hw.bpSilence d.mode (d.flags c)

/-! ## What an event leaves unchanged -/

/-- An event may change of a device the mode, suspension, shutdown, table and event record (R142, R146 to R148). -/
def Device.EventFrame (d e : Device) : Prop :=
  e = { d with mode := e.mode, susp := e.susp, shut := e.shut, eht := e.eht, decr := e.decr, dear := e.dear,
               dedr := e.dedr, defr := e.defr }

/-- What an event at device `id` leaves of each device. -/
def EventFrameAt (id : DevId) (s t : State) : Prop :=
  ∀ id' d, s.dev? id' = some d → ∃ e, t.dev? id' = some e ∧ d.EventFrame e ∧ (id' ≠ id → e.eht = d.eht ∧ d.SameRecord e)

theorem State.occur_eventFrameAt {s u : State} {k : EventKind} {id : DevId} {d : Device} {c : Byte} {a x : Word}
    (hd : s.dev? id = some d) (ho : s.occur k id d c a x = .ok (.stopped, u)) : EventFrameAt id s u := by
  intro id' e he
  by_cases hid : id' = id
  · subst hid
    cases hd.symm.trans he
    exact ⟨_, State.dev?_occur_same ho hd, rfl, fun hn => absurd rfl hn⟩
  · exact ⟨_, (State.dev?_occur_other ho hid).trans (congrArg _ he), rfl, fun _ => ⟨rfl, .refl e⟩⟩

theorem EventFrameAt.refl (id : DevId) (s : State) : EventFrameAt id s s := fun _ d hd =>
  ⟨d, hd, rfl, fun _ => ⟨rfl, .refl d⟩⟩

/-- Settles O47: an EVENT that does not trigger only reports. -/
theorem eventFrame : Obligations.EventFrame := by
  intro s t id c a x h
  rcases exec_event_cases h with rfl | ⟨d, k, r, u, hd, hk, ho, rfl⟩
  · exact ⟨rfl, rfl, rfl, rfl, rfl, rfl, rfl, EventFrameAt.refl id s⟩
  · rcases State.occur_cases ho with ⟨-, rfl, -⟩ | ⟨-, rfl, -⟩ | ⟨rfl, -⟩
    · exact ⟨rfl, rfl, rfl, rfl, rfl, rfl, rfl, EventFrameAt.refl id u⟩
    · exact ⟨rfl, rfl, rfl, rfl, rfl, rfl, rfl, EventFrameAt.refl id u⟩
    · obtain ⟨hhw, hpoc, hboot, hbus, hmem, hpend, -, -, hcore⟩ := State.occur_stopped_frame ho
      have hdev : EventFrameAt id s u := State.occur_eventFrameAt hd ho
      refine ⟨hhw, hpoc, hboot, hbus, hmem, hpend, ?_, hdev⟩
      rw [State.withAnswer_core, hcore]
      split <;> rfl

/-! ## Transactions -/

/-- Settles O35. -/
theorem memWriteThrownOut : Obligations.MemWriteThrownOut := by
  intro s a b id d st hm hp h
  have hn : ¬(d.protects (d.detects (.memWrite a b)) = false ∧ st = .ram) := fun ⟨hprot, hram⟩ =>
    h.elim (fun h => by rw [hprot] at h; cases h) fun h => h hram
  exact congrArg (TxOut.report · fun _ => .done) (State.memWrite_thrownOut hm hp hn)

/-- A transaction that an event stops ends as the EVENT of a code it raises does, but for the bus latch, the count of free
values and the report (R141, R144, R151). -/
theorem Issues.stopped_as_event {s t : State} {i : Instr} {id : DevId} {d : Device} {tx : Tx} (h : Issues s i id d tx)
    (hx : exec i s = .next t) (ha : t.answer = .stopped) :
    ∃ c ∈ d.detects tx, ∃ (a x : Word) (u : State) (b : Byte), tx.records a x ∧
      exec (.event id c a x) s = .next (u.withAnswer (.event .stopped)) ∧
      t = ((u.withBus b).drawn 2).withAnswer .stopped := by
  have hp : (d.detects tx).all d.passes = false := Bool.eq_false_iff.2 fun hp => by
    obtain ⟨t', ht', hans, -⟩ := h.performed hp
    cases hx.symm.trans ht'
    exact hans ha
  obtain ⟨c, hc, -, a, x, hrec, ⟨u, b, hu, hi, -⟩ | ⟨r, -, hi⟩⟩ := h.blocked hp
  · cases hx.symm.trans hi
    exact ⟨c, hc, a, x, u, b, hrec, hu, rfl⟩
  · cases hx.symm.trans hi

/-- Settles O45: the event that stops a transaction is recorded as when it is performed by itself. -/
theorem eventRecordsTrigger : Obligations.EventRecordsTrigger := by
  intro s t id d
  have hevent : ∀ (t : State) (c : Byte) (a x : Word), s.dev? id = some d → exec (.event id c a x) s = .next t →
      t.answer = .event .stopped → ∃ e, t.dev? id = some e ∧ e.decr = c ∧ e.dear = a ∧ e.dedr = x ∧
        e.defr = recordedFlags s.hw (d.flags c) e c := fun t c a x hd h ha => by
    obtain ⟨k, -, he⟩ := exec_event_stopped hd h ha
    exact ⟨_, he, rfl, rfl, rfl, Device.defr_recordTrigger s.hw k d c a x⟩
  refine ⟨hevent t, fun i tx hi hx ha => ?_⟩
  obtain ⟨c, hc, a, x, u, b, hrec, hu, rfl⟩ := hi.stopped_as_event hx ha
  obtain ⟨e, he, rfl, rfl, rfl, hdefr⟩ := hevent _ c a x (State.answering_dev hi.answering).1 hu rfl
  exact ⟨e, he, hc, hrec, hdefr⟩

/-- A transaction that is stopped is one that a device answers, and no AXR read (20_memory.md R66, R70). -/
theorem IsTransaction.issues_of_stopped {s t : State} {i : Instr} (h : IsTransaction i) (hx : exec i s = .next t)
    (ha : t.answer = .stopped) : ∃ id d tx, Issues s i id d tx := by
  cases h with
  | memRead a => exact Issues.of_stopped (q := .memRd a fun _ => .unknownOpcode) rfl hx ha
  | memWrite a b => exact Issues.of_stopped (q := .memWr a b .unknownOpcode) rfl hx ha
  | portRead p => exact Issues.of_stopped (q := .portRd p fun _ => .unknownOpcode) rfl hx ha
  | portWrite p b => exact Issues.of_stopped (q := .portWr p b .unknownOpcode) rfl hx ha
  | @axrRead _ id n hi =>
    obtain ⟨v, k, hr⟩ := axrReadOp_eq s id (axrReg n).read
    cases hx.symm.trans ((hi.exec_eq s).trans hr)
    cases ha
  | @axrWrite _ id n v hi =>
    rcases hd : s.answering id with _ | d
    · cases hx.symm.trans ((hi.exec_eq s).trans (axrWriteOp_unanswered hd n _ v))
      cases ha
    · exact ⟨id, d, _, .axrWrite hi hd⟩

/-- Settles O41: the frame is that of the event the transaction ends as. -/
theorem stoppedTransactionFrame : Obligations.StoppedTransactionFrame := by
  intro s t i hi hx ha
  obtain ⟨id, d, tx, h⟩ := hi.issues_of_stopped hx ha
  obtain ⟨c, -, a, x, u, b, -, hu, rfl⟩ := h.stopped_as_event hx ha
  obtain ⟨hhw, hpoc, hboot, -, hmem, hpend, hcore, hdev⟩ := eventFrame s _ id c a x hu
  exact ⟨hhw, hpoc, hboot, hmem, hpend, hcore, id, d, tx, h, hdev⟩

end Sys2Proof.Machine
end

section
/-! SUPPORT. What Power-On leaves of each device, and when it is refused (70_reset_and_hazards.md R180 to R184, R187). -/

namespace Sys2Proof.Machine

/-- Where POST passes, POWERON starts every device anew (70_reset_and_hazards.md R180, R183). -/
theorem exec_poweron_dev? {s : State} (h : s.postPassed = true) (cfg : BitVec 12) :
    ∃ t, exec (.poweron cfg) s = .next t ∧ ∀ (id : DevId) (d : Device), s.dev? id = some d →
      t.dev? id = some (powerOnDev s.draws (cfg &&& definedConfig s.hw.sms1Bit) id.toNat d.spec) :=
  ⟨_, exec_poweron_passed h cfg, fun id d hd => by
    rw [State.dev?_withAnswer, State.dev?_powerOn, hd, Option.map_some]⟩

/-- Settles O8: masking the reserved bits of the configuration leaves bits 9 and 8. -/
theorem powerOnModeSuspensionShutdown : Obligations.PowerOnModeSuspensionShutdown := by
  intro s cfg hpost
  obtain ⟨t, hx, hdev⟩ := exec_poweron_dev? hpost cfg
  obtain ⟨hmonitor, hsuspended, -⟩ := definedConfig_bits s.hw.sms1Bit cfg
  refine ⟨t, hx, fun id d hd => ⟨_, hdev id d hd, ?_, hsuspended, rfl⟩⟩
  rw [← hmonitor]
  rfl

/-- Settles O10: the table's entries are the defaults of their kinds, and a device after Power-On is sound. -/
theorem powerOnDefaultFlags : Obligations.PowerOnDefaultFlags := by
  intro s cfg hpost
  obtain ⟨t, hx, hdev⟩ := exec_poweron_dev? hpost cfg
  refine ⟨t, hx, fun id d hd => ⟨_, hdev id d hd, fun c => ⟨fun k hk => ?_, ?_⟩⟩⟩
  · rw [powerOnDev_flags, hk]
    exact defaultFlags_eq k
  · exact Device.wf_flags (powerOnDev_wf _ _ _ _) c

/-- One device that fails its POST fails the whole system's (70_reset_and_hazards.md R183). -/
theorem State.postPassed_eq_false {s : State} {id : DevId} {d : Device} (hd : s.dev? id = some d)
    (hcode : d.spec.postCode ≠ 0#4) : s.postPassed = false :=
  Bool.eq_false_iff.2 fun h =>
    hcode (beq_iff_eq.1 ((State.everyDev_iff s _).1 h d (State.mem_of_dev? hd)))

/-- Settles O11. -/
theorem powerOnRefusesFailedPost : Obligations.PowerOnRefusesFailedPost := by
  intro s cfg id d hd hcode
  simp only [exec, execPoweron, State.postPassed_eq_false hd hcode, Bool.false_eq_true, if_false]

end Sys2Proof.Machine
end
